-- ==== Sys2Proof/Word.lean ====
section
/-! DEFINITION. The words of the block: every host register is 32 bits (spec/00_scope.md R7), a BUF cell and a request
byte are 8 bits, an ACK is 3 bits (R6). -/

namespace Sys2Proof

/-- A 32-bit register, command word or transfer payload (R7). -/
abbrev Word := BitVec 32

/-- A byte of BUF (10_state.md R44) or a request byte (30_encoding.md R102). -/
abbrev Byte := BitVec 8

/-- A 3-bit acknowledge as `ReadBits(3)` gives it (30_encoding.md R98). -/
abbrev Ack := BitVec 3

end Sys2Proof
end

