-- ==== Sys2Proof/Syntax.lean ====
section
/-! DEFINITION. The eleven commands of spec/30_encoding.md R93 (spec/opcode_table.json), one constructor a row. -/

namespace Sys2Proof

/-- Direction of the data line (10_state.md R22). -/
inductive Dir where
  /-- IN: the block does not drive the line. -/
  | inp
  /-- OUT: the block drives SWDIO_O. -/
  | out
  deriving DecidableEq, Repr

/-- A command with the operands its word carries (30_encoding.md R92, R94). The value operands (WDATA, DLEN) are not part
of the word: they are latched at acceptance (10_state.md R46). -/
inductive Instr where
  /-- PULSE (R124). -/
  | pulse
  /-- RDBIT (R125). -/
  | rdbit
  /-- WRBIT v, v = B[0] (R126). -/
  | wrbit (v : Bool)
  /-- SETDIR d, d = OUT if B[0] = 1 (R127). -/
  | setdir (d : Dir)
  /-- WRBITS n, n = the N field (R143). -/
  | wrbits (n : BitVec 6)
  /-- RDBITS n, n = the N field (R144). -/
  | rdbits (n : BitVec 6)
  /-- PARITY (R145). -/
  | parity
  /-- CONNECT (R166). -/
  | connect
  /-- XFER.RD r, r = the B field (R198). -/
  | xferRd (r : Byte)
  /-- XFER.WR r, r = the B field (R199). -/
  | xferWr (r : Byte)
  /-- DUMP (R221). -/
  | dump
  deriving DecidableEq, Repr

end Sys2Proof
end

