-- ==== Sys2Proof/WellFormed.lean ====
section
/-! DEFINITION. Which terms of Instr are commands: the bit count of WRBITS and RDBITS is 1 to 32
(spec/30_encoding.md R91, R92). Every other operand is in range by its type. -/

namespace Sys2Proof

/-- The N field of WRBITS and RDBITS is legal from 1 to 32 inclusive (R91). -/
def countLegal (n : BitVec 6) : Bool := decide (1 ≤ n.toNat) && decide (n.toNat ≤ 32)

/-- A command the block may accept (R91). -/
def Instr.wellFormed : Instr → Bool
  | .pulse => true
  | .rdbit => true
  | .wrbit _ => true
  | .setdir _ => true
  | .wrbits n => countLegal n
  | .rdbits n => countLegal n
  | .parity => true
  | .connect => true
  | .xferRd _ => true
  | .xferWr _ => true
  | .dump => true

end Sys2Proof
end

