-- ==== Sys2Proof/Decode.lean ====
section
/-! DEFINITION. Decoding a command word (spec/30_encoding.md R91-R95), rejecting every other word by name, and the
encoder written from the same table. -/

namespace Sys2Proof

/-- The OP field, bits 7:0 (R92). -/
def opField (c : Word) : Byte := c.extractLsb' 0 8

/-- The B field, bits 15:8 (R92). -/
def bField (c : Word) : Byte := c.extractLsb' 8 8

/-- B[0], the value of WRBIT and the direction of SETDIR (R92). -/
def bBit (c : Word) : Bool := c.getLsbD 8

/-- The N field, bits 21:16 (R92). -/
def nField (c : Word) : BitVec 6 := c.extractLsb' 16 6

/-- A direction as B[0] encodes it: 1 = OUT, 0 = IN (R92). -/
def Dir.ofBit (b : Bool) : Dir := if b then .out else .inp

/-- The bit of a direction (R92, and PINS bit 1, 10_state.md R42). -/
def Dir.toBit : Dir → Bool
  | .inp => false
  | .out => true

/-- A row of the opcode map (R93). -/
structure OpRow where
  /-- The mask of the row. -/
  mask : Word
  /-- The value the masked word must have. -/
  value : Word
  deriving DecidableEq, Repr

/-- `(c AND mask) = match` (R91). -/
def OpRow.fits (r : OpRow) (c : Word) : Bool := c &&& r.mask == r.value

/-- Row PULSE of R93. -/
def rowPulse : OpRow := ⟨0xFFFFFFFF#32, 0x00000001#32⟩
/-- Row RDBIT of R93. -/
def rowRdbit : OpRow := ⟨0xFFFFFFFF#32, 0x00000002#32⟩
/-- Row WRBIT of R93. -/
def rowWrbit : OpRow := ⟨0xFFFFFEFF#32, 0x00000003#32⟩
/-- Row SETDIR of R93. -/
def rowSetdir : OpRow := ⟨0xFFFFFEFF#32, 0x00000004#32⟩
/-- Row WRBITS of R93. -/
def rowWrbits : OpRow := ⟨0xFFC0FFFF#32, 0x00000005#32⟩
/-- Row RDBITS of R93. -/
def rowRdbits : OpRow := ⟨0xFFC0FFFF#32, 0x00000006#32⟩
/-- Row PARITY of R93. -/
def rowParity : OpRow := ⟨0xFFFFFFFF#32, 0x00000007#32⟩
/-- Row CONNECT of R93. -/
def rowConnect : OpRow := ⟨0xFFFFFFFF#32, 0x00000010#32⟩
/-- Row XFER.RD of R93. -/
def rowXferRd : OpRow := ⟨0xFFFF00FF#32, 0x00000020#32⟩
/-- Row XFER.WR of R93. -/
def rowXferWr : OpRow := ⟨0xFFFF00FF#32, 0x00000021#32⟩
/-- Row DUMP of R93. -/
def rowDump : OpRow := ⟨0xFFFFFFFF#32, 0x00000030#32⟩

/-- The opcode map of R93. -/
def opcodeMap : List OpRow :=
  [rowPulse, rowRdbit, rowWrbit, rowSetdir, rowWrbits, rowRdbits, rowParity, rowConnect, rowXferRd, rowXferWr, rowDump]

/-- Why a word is no command (R91, R95). Each raises ErrCmd alike; the name is the model's. -/
inductive IllegalWord where
  /-- The OP value is not in the opcode map. -/
  | reservedOpcode
  /-- A field the opcode does not use, or a bit of 31:22, is not zero. -/
  | unusedFieldSet
  /-- N of WRBITS or RDBITS is 0 or 33 to 63. -/
  | countOutOfRange
  deriving DecidableEq, Repr

/-- WRBITS or RDBITS with its N field checked (R91). -/
def decodeCount (mk : BitVec 6 → Instr) (n : BitVec 6) : Except IllegalWord Instr :=
  if countLegal n then .ok (mk n) else .error .countOutOfRange

/-- The command a word is, or why it is none: exactly one row of R93 or illegal (R91, R95). -/
def decode (c : Word) : Except IllegalWord Instr :=
  if rowPulse.fits c then .ok .pulse
  else if rowRdbit.fits c then .ok .rdbit
  else if rowWrbit.fits c then .ok (.wrbit (bBit c))
  else if rowSetdir.fits c then .ok (.setdir (Dir.ofBit (bBit c)))
  else if rowWrbits.fits c then decodeCount .wrbits (nField c)
  else if rowRdbits.fits c then decodeCount .rdbits (nField c)
  else if rowParity.fits c then .ok .parity
  else if rowConnect.fits c then .ok .connect
  else if rowXferRd.fits c then .ok (.xferRd (bField c))
  else if rowXferWr.fits c then .ok (.xferWr (bField c))
  else if rowDump.fits c then .ok .dump
  else if opcodeMap.any (fun r => r.value == c &&& 0x000000FF#32) then .error .unusedFieldSet
  else .error .reservedOpcode

/-- The word with fields RSV = 0, N, B, OP (R92). -/
def commandWord (op : Byte) (b : Byte) (n : BitVec 6) : Word := 0#10 ++ n ++ b ++ op

/-- A bit in B[0], B[7:1] = 0 (R92). -/
def bOfBit (v : Bool) : Byte := if v then 0x01#8 else 0x00#8

/-- The word of a command (R92, R93). -/
def encode : Instr → Word
  | .pulse => commandWord 0x01#8 0#8 0#6
  | .rdbit => commandWord 0x02#8 0#8 0#6
  | .wrbit v => commandWord 0x03#8 (bOfBit v) 0#6
  | .setdir d => commandWord 0x04#8 (bOfBit d.toBit) 0#6
  | .wrbits n => commandWord 0x05#8 0#8 n
  | .rdbits n => commandWord 0x06#8 0#8 n
  | .parity => commandWord 0x07#8 0#8 0#6
  | .connect => commandWord 0x10#8 0#8 0#6
  | .xferRd r => commandWord 0x20#8 r 0#6
  | .xferWr r => commandWord 0x21#8 r 0#6
  | .dump => commandWord 0x30#8 0#8 0#6

/-- The 32-bit command word of an instruction whose first `nbits` bits are `w`, the bits above zero. A command is one
word written to CMD as a whole (R90, R92), so there is no byte order. -/
def wordOfBits (nbits w : Nat) : Word := BitVec.ofNat 32 (w % 2 ^ nbits)

/-- The instruction the decoder reads from the bits of an opcode-table word; none where it rejects. -/
def decodeTableWord (nbits w : Nat) : Option Instr :=
  match decode (wordOfBits nbits w) with
  | .ok i => some i
  | .error _ => none

end Sys2Proof
end

