-- ==== Sys2Proof/Config.lean ====
section
/-! DEFINITION. What an instance of the hardware fixes (spec/00_scope.md R6) and the free values of the model: opaque
constants without a body, of which nothing can be proved. -/

namespace Sys2Proof

/-- The instance parameters a rule depends on (R6, 20_memory.md R60). T_HALF has no part in any rule (70_reset_and_hazards.md
R283, assumption log 5). -/
structure Params where
  /-- BASE: the address of the host window in the host's address map (20_memory.md R60). -/
  base : Nat
  /-- DUMP_CAPACITY: bytes of the dump buffer. -/
  dumpCapacity : Nat
  /-- LINE_RESET_HIGH: cycles a line reset drives 1. -/
  lineResetHigh : Nat
  /-- LINE_RESET_IDLE: idle cycles that close a line reset. -/
  lineResetIdle : Nat
  /-- WR_TRN: turnaround cycles before the engine drives after the target. -/
  wrTrn : Nat
  deriving DecidableEq, Repr

/-- The ranges of R6, and the alignment of BASE (20_memory.md R60). -/
abbrev Params.Legal (p : Params) : Prop :=
  p.base % 0x1000 = 0 ∧
  p.dumpCapacity % 4 = 0 ∧ 8 ≤ p.dumpCapacity ∧ p.dumpCapacity ≤ 2 ^ 20 ∧
  50 ≤ p.lineResetHigh ∧ p.lineResetHigh ≤ 255 ∧ p.lineResetIdle ≤ 255 ∧ p.wrTrn ≤ 1

/-- ACK_OK, the one 3-bit value that means OK (R6, 30_encoding.md R98). DESIGN CHOICE of the spec (D14), log 12. -/
def Config.ackOk : Ack := 1#3

/-- The value of an idle bit, IDLE_BIT = 0, as a word `WriteBits` sends (R6, 30_encoding.md R100), log 12. -/
def Config.idleBits : Word := 0#32

/-- FREE VALUE. The k-th bit the target puts on the line when no scripted draw is left (R8): log 1. -/
opaque Config.sample : Nat → Bool

/-- FREE VALUE. What byte i of BUF holds after the e-th reset (10_state.md R44, R52): log 2. -/
opaque Config.bufReset : Nat → Nat → Byte

/-- FREE VALUE. Fixes DUMP_CAPACITY of the instance `State.reset` describes, which R6 leaves OPEN: log 4. -/
opaque Config.capacityChoice : Nat

/-- FREE VALUE. Fixes BASE of the instance `State.reset` describes, which 20_memory.md R60 leaves OPEN: log 4. -/
opaque Config.baseChoice : Nat

/-- DUMP_CAPACITY of the instance `State.reset` describes: every multiple of 4 from 8 to 2^20 is a possible value (R6). -/
def Config.dumpCapacity : Nat := 4 * (Config.capacityChoice % 262143 + 2)

/-- The instance `State.reset` describes: BASE and DUMP_CAPACITY free, the other parameters at the values R6 gives. DESIGN CHOICE,
log 4. -/
def Config.params : Params :=
  { base := 0x1000 * Config.baseChoice, dumpCapacity := Config.dumpCapacity, lineResetHigh := 62, lineResetIdle := 2, wrTrn := 1 }

end Sys2Proof
end

