-- ==== Sys2Proof/Machine/State.lean ====
section
/-! DEFINITION. The state of the block (spec/10_state.md R20), the hidden engine state (R45) with the position as the
remainder of the command's pseudocode, the environment's inputs as plain data, and the state after reset (R52). -/

namespace Sys2Proof.Machine

/-- One clock cycle as the target sees it (00_scope.md R11). -/
structure Cycle where
  /-- The bit driven when DIR = OUT, else none. -/
  drv : Option Bool
  /-- The bit sampled when the cycle is a ReadBit, else none. -/
  smp : Option Bool
  deriving DecidableEq, Repr

/-- STATUS.RESULT (R33). The reserved codes 0x6 to 0xF are never written and have no constructor. -/
inductive CmdResult where
  | none
  | ok
  | fail
  | found
  | notFound
  | capExceeded
  deriving DecidableEq, Repr

/-- STATUS.SSTATE, the session state machine (R34, 42_session.md R160). -/
inductive SState where
  | reset
  | wake
  | lineReset
  | modeSwitch
  | lineReset2
  | idRequest
  | found
  | notFound
  deriving DecidableEq, Repr

/-- Direction of a transaction, with the payload of a write (43_transaction.md R195). -/
inductive XferDir where
  | rd
  | wr (payload : Word)
  deriving DecidableEq, Repr

/-- The transaction record T (43_transaction.md R195); `ok` is res = OK. -/
structure Trans where
  ok : Bool
  data : Word
  ack1 : Ack
  acka : Ack
  ack2 : Ack
  recovered : Bool
  rpar : Bool
  perr : Bool
  deriving DecidableEq, Repr

/-- T as a transaction starts with it (R195). -/
def Trans.start : Trans :=
  { ok := false, data := 0#32, ack1 := 0#3, acka := 0#3, ack2 := 0#3, recovered := false, rpar := false, perr := false }

/-- Where a sampled bit goes: bit i of a value being read, or the parity bit (R24, R144, R190, R193). -/
inductive ReadDst where
  | value (i : Nat)
  | ack1 (i : Nat)
  | acka (i : Nat)
  | ack2 (i : Nat)
  | data (i : Nat)
  | rpar
  deriving DecidableEq, Repr

/-- Which results the completion step of a command writes (10_state.md R47 and each command's rule). -/
inductive Ending where
  /-- RESULT NONE, RECOVERED 0 (R124, R126, R127, R143). -/
  | plain
  /-- As plain, and RDATA (R125, R144, R145). -/
  | value
  /-- XFER.RD (R198). -/
  | xferRd
  /-- XFER.WR (R199). -/
  | xferWr
  /-- CONNECT (R166). -/
  | session
  /-- DUMP refused for capacity (R225). -/
  | capExceeded
  /-- DUMP that ran to its end (R221). -/
  | dumpDone
  /-- DUMP stopped by a failed transaction (R221 stop, R227). -/
  | dumpStopped
  deriving DecidableEq, Repr

/-- A line of a command's pseudocode that is still to run. A clock cycle, a zero-cycle update, a store and the completion
are the engine steps of 20_memory.md R72; the decision lines only move the position (assumption log 8). -/
inductive Op where
  /-- `PulseClock()` (R120). -/
  | pulseClock
  /-- `… <- ReadBit()` (R121). -/
  | readBit (dst : ReadDst)
  /-- `WriteBit(v)` (R122). -/
  | writeBit (v : Bool)
  /-- `SetDirection(d)` (R123). -/
  | setDirection (d : Dir)
  /-- `STATUS.SSTATE <- x` (R161). -/
  | enterState (x : SState)
  /-- `p <- Parity(L_WDATA)` (R145). -/
  | parityOfWdata
  /-- `T <- {res = FAIL, …}` (R195). -/
  | newTransaction
  /-- `if T.ack1 = ACK_OK … else Recover` (R195). -/
  | testAck1 (r : Byte) (x : XferDir)
  /-- `if T.ack2 = ACK_OK … else TurnToWrite()` (R196). -/
  | testAck2 (x : XferDir)
  /-- The ACK test of IdRequest (R165). -/
  | testIdAck
  /-- `T.perr <- p XOR Parity(d)` (R195). -/
  | takePerr
  /-- `T.res <- OK` (R195, R196). -/
  | transactionOk
  /-- `rec <- rec OR T.rec; if T.res = FAIL: goto stop` (R221). -/
  | dumpCheck
  /-- The head of DUMP's read loop: read i of K is next (R221, R223). -/
  | dumpRead (i k : Nat)
  /-- `StoreWordBE(k, T.data); words <- words + 1` (R221, R224). -/
  | storeWord (k : Nat)
  /-- The completion step (R47). -/
  | complete (e : Ending)
  deriving DecidableEq, Repr

/-- What acceptance latches: L_CMD, L_WDATA, L_DLEN (10_state.md R45, R46). -/
structure Latch where
  cmd : Word
  wdata : Word
  dlen : Word
  deriving DecidableEq, Repr

/-- What the completion step's values are made from (R45): the value being read, the transaction record T, and DUMP's
`rec` and `words` (R221). -/
structure Shadow where
  value : Word
  trans : Trans
  recAny : Bool
  words : Nat
  deriving DecidableEq, Repr

/-- The shadow results a command starts with (R195, R221, `r <- 0` of R141). -/
def Shadow.start : Shadow := { value := 0#32, trans := Trans.start, recAny := false, words := 0 }

/-- A running command (R45): the latch, the shadow results and the position. -/
structure Running where
  latch : Latch
  shadow : Shadow
  prog : List Op
  deriving DecidableEq, Repr

/-- The engine: idle, or running a command (R45, R52). STATUS.BUSY is the view of it (R29). -/
inductive Engine where
  | idle
  | running (r : Running)
  deriving DecidableEq, Repr

/-- What happens next in the total order of 20_memory.md R72. -/
inductive Event where
  /-- The engine takes one step. -/
  | engine
  /-- `MemRead(off, n)`: a host read of n bytes at window offset `off` (00_scope.md R10). -/
  | read (off n : Nat)
  /-- `MemWrite(off, n, v)` (R10). -/
  | write (off n : Nat) (v : Word)
  /-- The host line `wait`: STATUS read until BUSY = 0 (30_encoding.md R96). -/
  | wait
  /-- The reset input is asserted (70_reset_and_hazards.md R270). -/
  | resetAssert
  /-- The reset input is released. -/
  | resetRelease
  deriving DecidableEq, Repr

/-- What the bus answered the last host access (20_memory.md R61-R63). -/
inductive BusResp where
  /-- No host access yet. -/
  | none
  /-- A read's data, zero-extended. -/
  | data (v : Word)
  /-- A write was accepted on the bus. -/
  | written
  /-- The error response of BusError (60_exceptions.md R243). -/
  | error
  deriving DecidableEq, Repr

/-- Bytes by address (window offset), addresses strictly rising; a byte no DUMP has stored since reset is not listed. -/
abbrev Memory := List Host.Cell

/-- The state of the block (10_state.md R20), and below it the model's own fields. -/
structure State where
  /-- SWCLK (R21). -/
  swclk : Bool
  /-- DIR (R22). -/
  dir : Dir
  /-- SWDIO_O (R23). -/
  swdioO : Bool
  /-- STATUS.ERR_CMD (R30). -/
  errCmd : Bool
  /-- STATUS.ERR_BUSY (R31). -/
  errBusy : Bool
  /-- STATUS.RECOVERED (R32). -/
  recovered : Bool
  /-- STATUS.RESULT (R33). -/
  result : CmdResult
  /-- STATUS.SSTATE (R34). -/
  sstate : SState
  /-- WDATA (R35). -/
  wdata : Word
  /-- RDATA (R36). -/
  rdata : Word
  /-- DLEN (R37). -/
  dlen : Word
  /-- IDCODE (R38). -/
  idcode : Word
  /-- ACKS (R39). -/
  acks : Word
  /-- DCOUNT (R40). -/
  dcount : Word
  /-- CYCCNT (R41). -/
  cyccnt : Word
  /-- The instance constants PARAM0 and PARAM1 report (R20, R43). No step changes them. -/
  params : Params
  /-- BUF (R44). -/
  buf : Memory
  /-- The hidden engine state (R45). -/
  engine : Engine
  /-- The wire trace (00_scope.md R11). -/
  wire : List Cycle
  /-- MODEL'S OWN. The bits the target will put on the line, in order (R8, D49), log 1. -/
  draws : List Bool
  /-- MODEL'S OWN. How many draws were taken beyond `draws`, log 1. -/
  drawIdx : Nat
  /-- MODEL'S OWN. How many resets chose the unspecified content of BUF, log 2. -/
  bufEpoch : Nat
  /-- MODEL'S OWN. What the environment does next, log 3. -/
  sched : List Event
  /-- MODEL'S OWN. The reset input is asserted, log 7. -/
  inReset : Bool
  /-- MODEL'S OWN. The bus's last answer, log 9. -/
  resp : BusResp
  deriving DecidableEq, Repr

/-- No event stops the block for good (60_exceptions.md R248): no step ends in a fault. -/
inductive Fault where
  deriving DecidableEq, Repr

/-- Why a step has no meaning. -/
inductive Refusal where
  /-- Raised by exec for a command without a meaning; no arm is left that raises it. Safe. -/
  | notModelled (mnemonic : String)
  /-- Raised by step for a host access while reset is asserted, which the spec puts outside the model
  (70_reset_and_hazards.md R270, 93_implementation_defined.md I17). Safe. -/
  | accessDuringReset
  deriving DecidableEq, Repr

/-- The machine right after reset (10_state.md R52, 70_reset_and_hazards.md R270), reset released. The model's own fields
and the parameters are the choices of assumption log 1, 2, 3, 4, 7 and 9. -/
def State.reset : State :=
  { swclk := true
    dir := .inp
    swdioO := false
    errCmd := false
    errBusy := false
    recovered := false
    result := .none
    sstate := .reset
    wdata := 0#32
    rdata := 0#32
    dlen := 0#32
    idcode := 0#32
    acks := 0#32
    dcount := 0#32
    cyccnt := 0#32
    params := Config.params
    buf := []
    engine := .idle
    wire := []
    draws := []
    drawIdx := 0
    bufEpoch := 0
    sched := []
    inReset := false
    resp := .none }

end Sys2Proof.Machine
end

