-- ==== Sys2Proof/Machine/Flags.lean ====
section
/-! DEFINITION. The computed bits: parity, and the views STATUS, PINS, PARAM0, PARAM1 and ACKS. -/

namespace Sys2Proof.Machine

/-- The number of 1 bits (spec/00_scope.md R9). -/
def popcount (v : Word) : Nat := (List.range 32).countP (fun i => v.getLsbD i)

/-- `Parity(v) = popcount(v) mod 2` (41_codec.md R142). -/
def parity (v : Word) : Bool := popcount v % 2 == 1

/-- zext_32 of a bit. -/
def zextBit (b : Bool) : Word := if b then 1#32 else 0#32

/-- `v[i] <- b` (00_scope.md R9). -/
def setBit {w : Nat} (v : BitVec w) (i : Nat) (b : Bool) : BitVec w :=
  if b then v ||| (1#w <<< i) else v &&& ~~~(1#w <<< i)

/-- STATUS.BUSY (10_state.md R29): a command runs. -/
def State.busy (s : State) : Bool :=
  match s.engine with
  | .idle => false
  | .running _ => true

/-- The RESULT codes (R33). -/
def CmdResult.code : CmdResult → BitVec 4
  | .none => 0x0#4
  | .ok => 0x1#4
  | .fail => 0x2#4
  | .found => 0x3#4
  | .notFound => 0x4#4
  | .capExceeded => 0x5#4

/-- The SSTATE codes (R34). -/
def SState.code : SState → BitVec 3
  | .reset => 0#3
  | .wake => 1#3
  | .lineReset => 2#3
  | .modeSwitch => 3#3
  | .lineReset2 => 4#3
  | .idRequest => 5#3
  | .found => 6#3
  | .notFound => 7#3

/-- STATUS as a host reads it (R28). -/
def statusWord (s : State) : Word :=
  0#21 ++ s.sstate.code ++ s.result.code ++ BitVec.ofBool s.recovered ++ BitVec.ofBool s.errBusy ++
    BitVec.ofBool s.errCmd ++ BitVec.ofBool s.busy

/-- PINS as a host reads it (R42). -/
def pinsWord (s : State) : Word :=
  0#29 ++ BitVec.ofBool s.swdioO ++ BitVec.ofBool s.dir.toBit ++ BitVec.ofBool s.swclk

/-- PARAM0 (R43). -/
def param0Word (p : Params) : Word := BitVec.ofNat 32 p.dumpCapacity

/-- PARAM1 (R43). -/
def param1Word (p : Params) : Word :=
  0#15 ++ BitVec.ofNat 1 p.wrTrn ++ BitVec.ofNat 8 p.lineResetIdle ++ BitVec.ofNat 8 p.lineResetHigh

/-- `Pack(T)` (43_transaction.md R201, the layout of ACKS in 10_state.md R39). -/
def packAcks (t : Trans) : Word :=
  0#21 ++ BitVec.ofBool t.perr ++ BitVec.ofBool t.rpar ++ t.ack2 ++ t.acka ++ t.ack1

end Sys2Proof.Machine
end

