-- ==== Sys2Proof/Machine/Operands.lean ====
section
/-! DEFINITION. The operand forms of the commands (spec/30_encoding.md R94): fields of the latched command word, and the
latched WDATA and DLEN. Nothing is sign-extended, scaled or shifted. -/

namespace Sys2Proof.Machine

/-- L_CMD.B[0], the bit WRBIT writes (R94, 40_bit_io.md R126). -/
def Latch.bit (l : Latch) : Bool := bBit l.cmd

/-- The direction of SETDIR: OUT if L_CMD.B[0] = 1 (40_bit_io.md R127). -/
def Latch.direction (l : Latch) : Dir := Dir.ofBit (bBit l.cmd)

/-- L_CMD.N, the bit count of WRBITS and RDBITS, unsigned (R94). -/
def Latch.count (l : Latch) : Nat := (nField l.cmd).toNat

/-- L_CMD.B, the request byte of XFER.RD and XFER.WR, sent as given (R94, R102). -/
def Latch.request (l : Latch) : Byte := bField l.cmd

/-- The 32-bit value operand L_WDATA: WRBITS' value, PARITY's operand, XFER.WR's payload, DUMP's start address (R94). -/
def Latch.value (l : Latch) : Word := l.wdata

/-- DUMP's byte count n = L_DLEN, unsigned (44_dump.md R220). -/
def Latch.byteCount (l : Latch) : Nat := l.dlen.toNat

/-- ceil(n / 4) = (n + 3) div 4 (44_dump.md R223). -/
def wordCount (n : Nat) : Nat := (n + 3) / 4

/-- What acceptance latches (10_state.md R46, 30_encoding.md R90). -/
def latchOf (i : Instr) (s : State) : Latch := { cmd := encode i, wdata := s.wdata, dlen := s.dlen }

end Sys2Proof.Machine
end

