-- ==== Sys2Proof/Machine/Ops.lean ====
section
/-! DEFINITION. The shared operations: BUF, the draws, the four bit I/O primitives, the three refusals of a host access,
reset, and the completion step. -/

namespace Sys2Proof.Machine

/-! ## BUF (spec/10_state.md R44) -/

/-- Window offset of BUF[0] (R25). -/
def bufBase : Nat := 0x1000

/-- The canonical form of a memory: addresses strictly rising. An unlisted byte reads as nothing stored, so no entry can
repeat what an unlisted address reads as (assumption log 2). -/
abbrev Memory.wf (m : Memory) : Prop := m.Pairwise (fun x y => x.1 < y.1)

/-- The byte stored at an address since reset, if one was. -/
def Memory.read : Memory → Nat → Option Byte
  | [], _ => none
  | (a', b') :: m, a => if a = a' then some b' else Memory.read m a

/-- Stores a byte, keeping the addresses strictly rising. -/
def Memory.write : Memory → Nat → Byte → Memory
  | [], a, b => [(a, b)]
  | (a', b') :: m, a, b =>
    if a < a' then (a, b) :: (a', b') :: m
    else if a = a' then (a, b) :: m
    else (a', b') :: Memory.write m a b

/-- BUF[i]: the byte a DUMP stored, or what reset left there, a draw (R44, R52). -/
def bufByte (s : State) (i : Nat) : Byte := (s.buf.read (bufBase + i)).getD (Config.bufReset s.bufEpoch i)

/-- The little-endian 32-bit read of BUF (20_memory.md R62): BUF[i] in bits 7:0. -/
def bufWord (s : State) (i : Nat) : Word :=
  bufByte s (i + 3) ++ bufByte s (i + 2) ++ bufByte s (i + 1) ++ bufByte s i

/-- The buffer after `StoreWordBE(k, w)` (20_memory.md R68): most significant byte first. -/
def bufAfterStore (m : Memory) (k : Nat) (w : Word) : Memory :=
  (((m.write (bufBase + (4 * k + 0)) (w.extractLsb' 24 8)).write (bufBase + (4 * k + 1)) (w.extractLsb' 16 8)).write
    (bufBase + (4 * k + 2)) (w.extractLsb' 8 8)).write (bufBase + (4 * k + 3)) (w.extractLsb' 0 8)

/-- `StoreWordBE(k, w)`, one engine step of no cycle (20_memory.md R68, 44_dump.md R224). -/
def storeWordBE (k : Nat) (w : Word) (s : State) : State := { s with buf := bufAfterStore s.buf k w }

/-! ## Draws (00_scope.md R8) -/

/-- The k-th bit the target will put on the line from now on: scripted, then free (assumption log 1). -/
def drawAt (s : State) (k : Nat) : Bool := (s.draws[k]?).getD (Config.sample (s.drawIdx + (k - s.draws.length)))

/-- The environment after n samples. -/
def skipDraws (n : Nat) (s : State) : State :=
  { s with draws := s.draws.drop n, drawIdx := s.drawIdx + (n - s.draws.length) }

/-! ## The primitives (40_bit_io.md) -/

/-- What the block puts on the line (10_state.md R22, R23). -/
def driven (s : State) : Option Bool :=
  match s.dir with
  | .out => some s.swdioO
  | .inp => none

/-- One clock cycle that samples `smp`: SWCLK low then high, the record appended, CYCCNT counted (R120, R121). -/
def clockCycle (smp : Option Bool) (s : State) : State :=
  { s with swclk := true, wire := s.wire ++ [{ drv := driven s, smp := smp }], cyccnt := s.cyccnt + 1#32 }

/-- `PulseClock()` (R120). -/
def pulseClock (s : State) : State := clockCycle none s

/-- `Sample()`: the next draw (00_scope.md R8). -/
def sample (s : State) : Bool := drawAt s 0

/-- The state after `ReadBit()`, which returns `sample s` (R121). -/
def readBit (s : State) : State := skipDraws 1 (clockCycle (some (sample s)) s)

/-- `WriteBit(v)` (R122). -/
def writeBit (v : Bool) (s : State) : State := pulseClock { s with swdioO := v }

/-- `SetDirection(d)`: no cycle (R123). -/
def setDirection (d : Dir) (s : State) : State := { s with dir := d }

/-! ## Refusals of a host access (60_exceptions.md R240-R243) and reset -/

/-- `raise ErrCmd`: the sticky bit and nothing else (R241). -/
def raiseErrCmd (s : State) : State := { s with errCmd := true }

/-- `raise ErrBusy`: the sticky bit and nothing else (R242). -/
def raiseErrBusy (s : State) : State := { s with errBusy := true }

/-- A CMD write of an illegal word: ErrBusy while busy, else ErrCmd (30_encoding.md R90, R251). -/
def refuseWord (s : State) : State := if s.busy then raiseErrBusy s else raiseErrCmd s

/-- Asserting reset: every piece of state at its reset value, in one step, whatever the block was doing; a running command
ends without its completion step; BUF is unspecified anew (70_reset_and_hazards.md R270, R271). The instance constants and
the environment stay. -/
def assertReset (s : State) : State :=
  { State.reset with
    params := s.params
    draws := s.draws
    drawIdx := s.drawIdx
    bufEpoch := s.bufEpoch + 1
    sched := s.sched
    inReset := true
    resp := s.resp }

/-- Releasing reset. -/
def releaseReset (s : State) : State := { s with inReset := false }

/-! ## Bookkeeping of the running command (10_state.md R45) -/

/-- The engine goes on with the running command at its new position. -/
def resume (r : Running) (s : State) : State := { s with engine := .running r }

/-- The shadow results after a sampled bit. -/
def Shadow.take (h : Shadow) (b : Bool) : ReadDst → Shadow
  | .value i => { h with value := setBit h.value i b }
  | .ack1 i => { h with trans := { h.trans with ack1 := setBit h.trans.ack1 i b } }
  | .acka i => { h with trans := { h.trans with acka := setBit h.trans.acka i b } }
  | .ack2 i => { h with trans := { h.trans with ack2 := setBit h.trans.ack2 i b } }
  | .data i => { h with trans := { h.trans with data := setBit h.trans.data i b } }
  | .rpar => { h with trans := { h.trans with rpar := b } }

/-! ## The completion step (10_state.md R47) -/

/-- RESULT of a transaction: OK or FAIL (43_transaction.md R198, R199). -/
def Trans.outcome (t : Trans) : CmdResult := if t.ok then .ok else .fail

/-- DCOUNT of a DUMP stopped by a failure: min(n, 4 x words stored) (44_dump.md R226). -/
def stoppedCount (n words : Nat) : Word := BitVec.ofNat 32 (min n (4 * words))

/-- The completion step: the results the command's rule writes, and BUSY <- 0 (R47, R36, R38, R39, R40, R32, R33). -/
def complete (e : Ending) (r : Running) (s : State) : State :=
  let t := r.shadow.trans
  match e with
  | .plain => { s with engine := .idle, result := .none, recovered := false }
  | .value => { s with engine := .idle, result := .none, recovered := false, rdata := r.shadow.value }
  | .xferRd =>
    { s with
      engine := .idle, result := t.outcome, recovered := t.recovered, acks := packAcks t
      rdata := if t.ok then t.data else s.rdata }
  | .xferWr => { s with engine := .idle, result := t.outcome, recovered := t.recovered, acks := packAcks t }
  | .session =>
    { s with
      engine := .idle, recovered := false, acks := packAcks t
      result := if t.ok then .found else .notFound
      sstate := if t.ok then .found else .notFound
      idcode := if t.ok then t.data else 0#32 }
  | .capExceeded => { s with engine := .idle, result := .capExceeded, recovered := false, dcount := 0#32 }
  | .dumpDone =>
    { s with
      engine := .idle, result := .ok, recovered := r.shadow.recAny, acks := packAcks t, dcount := r.latch.dlen }
  | .dumpStopped =>
    { s with
      engine := .idle, result := .fail, recovered := r.shadow.recAny, acks := packAcks t
      dcount := stoppedCount r.latch.byteCount r.shadow.words }

end Sys2Proof.Machine
end

