-- ==== Sys2Proof/Machine/Program.lean ====
section
/-! DEFINITION. The pseudocode of the codec, the session, the transaction engine and the dump as lists of the lines still
to run (spec/41_codec.md to 44_dump.md). -/

namespace Sys2Proof.Machine

/-! ## Codec (41_codec.md) -/

/-- `WriteBits(v, n)`: LSB first (R140). -/
def writeBits {w : Nat} (v : BitVec w) (n : Nat) : List Op := (List.range n).map (fun i => .writeBit (v.getLsbD i))

/-- `ReadBits(n)`: the i-th bit read goes to bit i (R141). -/
def readBits (dst : Nat → ReadDst) (n : Nat) : List Op := (List.range n).map (fun i => .readBit (dst i))

/-- The four idle bits after a data phase (R193, R194) and after the alert (42_session.md R163). -/
def idleBits4 : List Op := writeBits Config.idleBits 4

/-! ## Fixed wire constants (30_encoding.md R101) -/

/-- ID request. -/
def reqId : Byte := 0xA5#8
/-- Abort request. -/
def reqAbort : Byte := 0x81#8
/-- Abort payload (R105). -/
def abortPayload : Word := 0x0000001E#32
/-- Select request. -/
def reqSelect : Byte := 0xB1#8
/-- Select payload. -/
def selectPayload : Word := 0x00000000#32
/-- Address request. -/
def reqAddress : Byte := 0x8B#8
/-- Data request. -/
def reqData : Byte := 0x9F#8
/-- The selection alert, 128 bits. -/
def alert : BitVec 128 := 0x19BC0EA2E3DDAFE986852D956209F392#128
/-- The activation code. -/
def activation : Byte := 0x1A#8
/-- The mode-switch sequence. -/
def modeSwitchSeq : BitVec 16 := 0xE79E#16

/-! ## Transaction engine (43_transaction.md) -/

/-- `Request(r)`, the ACK going to `dst` (R190). -/
def request (r : Byte) (dst : Nat → ReadDst) : List Op :=
  .setDirection .out :: (writeBits r 8 ++ (.setDirection .inp :: .pulseClock :: readBits dst 3))

/-- `TurnToWrite()` (R192). -/
def turnToWrite (p : Params) : List Op := List.replicate p.wrTrn .pulseClock ++ [.setDirection .out]

/-- `ReadPhase()` (R193). -/
def readPhase : List Op := readBits .data 32 ++ (.readBit .rpar :: .setDirection .out :: idleBits4)

/-- `WritePhase(v)` (R194). -/
def writePhase (p : Params) (v : Word) : List Op :=
  turnToWrite p ++ (writeBits v 32 ++ (.writeBit (parity v) :: idleBits4))

/-- `DataPhase(dir, v, T) ; T.res <- OK` (R195). -/
def dataPhase (p : Params) : XferDir → List Op
  | .rd => readPhase ++ [.takePerr, .transactionOk]
  | .wr v => writePhase p v ++ [.transactionOk]

/-- `Recover(r, dir, v, T)` up to its ACK test (R196): the abort write, whose ACK is not tested, and the reissue. A recovered
read so takes 61 + 2 WR_TRN cycles more than a clean one, as R203 has it; where 44_dump.md R231 says
62 + WR_TRN instead, following R203 is the model's choice (DEDUCED, log 22). -/
def recoverLead (p : Params) (r : Byte) : List Op :=
  turnToWrite p ++ (request reqAbort .acka ++ (writePhase p abortPayload ++ request r .ack2))

/-- `Recover(r, dir, v, T)` (R196). -/
def recover (p : Params) (r : Byte) (x : XferDir) : List Op := recoverLead p r ++ [.testAck2 x]

/-- `Transact(r, dir, v)` (R195). -/
def transact (r : Byte) (x : XferDir) : List Op := .newTransaction :: (request r .ack1 ++ [.testAck1 r x])

/-- What follows the first ACK (R195). -/
def afterAck1 (p : Params) (r : Byte) (x : XferDir) (t : Trans) : List Op :=
  if t.ack1 = Config.ackOk then dataPhase p x else recover p r x

/-- What follows the reissued request's ACK (R196). -/
def afterAck2 (p : Params) (x : XferDir) (t : Trans) : List Op :=
  if t.ack2 = Config.ackOk then dataPhase p x else turnToWrite p

/-! ## Session (42_session.md) -/

/-- `LineReset()` (R162). -/
def lineReset (p : Params) : List Op :=
  List.replicate p.lineResetHigh (.writeBit true) ++ List.replicate p.lineResetIdle (.writeBit false)

/-- `Wake()`: the alert in 32-bit pieces, least significant first, 4 idle bits, the activation code (R163). -/
def wake : List Op :=
  .setDirection .out ::
    (writeBits (alert.extractLsb' 0 32) 32 ++ (writeBits (alert.extractLsb' 32 32) 32 ++
      (writeBits (alert.extractLsb' 64 32) 32 ++ (writeBits (alert.extractLsb' 96 32) 32 ++
        (idleBits4 ++ writeBits activation 8)))))

/-- `ModeSwitch()` (R164). -/
def modeSwitch : List Op := writeBits modeSwitchSeq 16

/-- `IdRequest()`: a read transaction without recovery (R165). -/
def idRequest : List Op := .newTransaction :: (request reqId .ack1 ++ [.testIdAck])

/-- What follows the ID request's ACK (R165). -/
def afterIdAck (p : Params) (t : Trans) : List Op :=
  if t.ack1 = Config.ackOk then dataPhase p .rd else turnToWrite p

/-- CONNECT from its first cycle on (R166); SSTATE <- WAKE is part of the acceptance (R161). -/
def connectProg (p : Params) : List Op :=
  wake ++ (.enterState .lineReset :: (lineReset p ++ (.enterState .modeSwitch :: (modeSwitch ++
    (.enterState .lineReset2 :: (lineReset p ++ (.enterState .idRequest :: (idRequest ++ [.complete .session]))))))))

/-! ## Dump (44_dump.md) -/

/-- One setup step: a write transaction, and the stop if it failed (R221, R222). -/
def dumpSetup (r : Byte) (v : Word) : List Op := transact r (.wr v) ++ [.dumpCheck]

/-- One pass of the read loop (R221): read i, the stop if it failed, and the store from the second read on. -/
def dumpIteration (i : Nat) : List Op :=
  transact reqData .rd ++ (.dumpCheck :: (if i = 0 then [] else [.storeWord (i - 1)]))

/-- What the read loop does at pass i of k (R221, R223). -/
def dumpPass (i k : Nat) : List Op := if i < k then dumpIteration i ++ [.dumpRead (i + 1) k] else []

/-- DUMP (R221): the capacity check, three setup writes, then K = ceil(n/4) + 1 reads. -/
def dumpProg (p : Params) (l : Latch) : List Op :=
  if p.dumpCapacity ≤ l.byteCount then [.complete .capExceeded]
  else
    dumpSetup reqAbort abortPayload ++ (dumpSetup reqSelect selectPayload ++ (dumpSetup reqAddress l.value ++
      [.dumpRead 0 (wordCount l.byteCount + 1), .complete .dumpDone]))

end Sys2Proof.Machine
end

