-- ==== Sys2Proof/Machine/Engine.lean ====
section
/-! DEFINITION. The engine (spec/10_state.md R45-R47, 20_memory.md R72): one engine step, the engine left to itself, and
the acceptance of a command (30_encoding.md R90). -/

namespace Sys2Proof.Machine

/-- Where DUMP goes on after a transaction (44_dump.md R221): on, or to `stop`. -/
def afterDumpCheck (t : Trans) (rest : List Op) : List Op := if t.ok then rest else [.complete .dumpStopped]

/-- One line of the running command's pseudocode, `r` being the command with the position already past it. -/
def runLine (op : Op) (r : Running) (s : State) : State :=
  match op with
  | .pulseClock => resume r (pulseClock s)
  | .readBit dst => resume { r with shadow := r.shadow.take (sample s) dst } (readBit s)
  | .writeBit v => resume r (writeBit v s)
  | .setDirection d => resume r (setDirection d s)
  | .enterState x => resume r { s with sstate := x }
  | .parityOfWdata => resume { r with shadow := { r.shadow with value := zextBit (parity r.latch.value) } } s
  | .newTransaction => resume { r with shadow := { r.shadow with trans := Trans.start } } s
  | .testAck1 q x =>
    let t := { r.shadow.trans with recovered := decide (r.shadow.trans.ack1 ≠ Config.ackOk) }
    resume { r with shadow := { r.shadow with trans := t }, prog := afterAck1 s.params q x t ++ r.prog } s
  | .testAck2 x => resume { r with prog := afterAck2 s.params x r.shadow.trans ++ r.prog } s
  | .testIdAck => resume { r with prog := afterIdAck s.params r.shadow.trans ++ r.prog } s
  | .takePerr =>
    let t := { r.shadow.trans with perr := r.shadow.trans.rpar ^^ parity r.shadow.trans.data }
    resume { r with shadow := { r.shadow with trans := t } } s
  | .transactionOk => resume { r with shadow := { r.shadow with trans := { r.shadow.trans with ok := true } } } s
  | .dumpCheck =>
    resume
      { r with
        shadow := { r.shadow with recAny := r.shadow.recAny || r.shadow.trans.recovered }
        prog := afterDumpCheck r.shadow.trans r.prog } s
  | .dumpRead i k => resume { r with prog := dumpPass i k ++ r.prog } s
  | .storeWord k =>
    resume { r with shadow := { r.shadow with words := r.shadow.words + 1 } } (storeWordBE k r.shadow.trans.data s)
  | .complete e => complete e r s

/-- One engine step. An idle engine does nothing (60_exceptions.md R262). A command whose pseudocode ran out without a
completion line, which no command's has, just ends (assumption log 14). -/
def engineStep (s : State) : State :=
  match s.engine with
  | .idle => s
  | .running r =>
    match r.prog with
    | [] => { s with engine := .idle }
    | op :: rest => runLine op { r with prog := rest } s

/-- n engine steps; an idle engine takes none. -/
def engineRun : Nat → State → State
  | 0, s => s
  | n + 1, s => if s.busy then engineRun n (engineStep s) else s

/-- How many engine steps a line can lead to: one, and those of the lines it may put in front. -/
def lineBound (p : Params) : Op → Nat
  | .testAck2 x => 1 + ((dataPhase p x).length + (turnToWrite p).length)
  | .testAck1 q x =>
    2 + ((dataPhase p x).length + (recoverLead p q).length + ((dataPhase p x).length + (turnToWrite p).length))
  | .testIdAck => 1 + ((dataPhase p .rd).length + (turnToWrite p).length)
  | .dumpRead i k =>
    1 + (k - i) *
      (5 + (request reqData .ack1).length +
        (2 + ((dataPhase p .rd).length + (recoverLead p reqData).length +
          ((dataPhase p .rd).length + (turnToWrite p).length))))
  | .dumpCheck => 2
  | .pulseClock => 1
  | .readBit _ => 1
  | .writeBit _ => 1
  | .setDirection _ => 1
  | .enterState _ => 1
  | .parityOfWdata => 1
  | .newTransaction => 1
  | .takePerr => 1
  | .transactionOk => 1
  | .storeWord _ => 1
  | .complete _ => 1

/-- A bound on the engine steps left in a command: every loop's count is fixed at acceptance (70_reset_and_hazards.md
R284, 60_exceptions.md R264). -/
def stepsLeft (s : State) : Nat :=
  match s.engine with
  | .idle => 0
  | .running r => (r.prog.map (lineBound s.params)).sum + 1

/-- The engine left to itself until no command runs. -/
def runToEnd (s : State) : State := engineRun (stepsLeft s) s

/-- The engine steps that come next in the total order (20_memory.md R72). With nothing more scheduled the engine runs its
command to the end (assumption log 3). -/
def advanceOn : List Event → State → State
  | [], s => runToEnd { s with sched := [] }
  | .engine :: rest, s => advanceOn rest (engineStep s)
  | .read off n :: rest, s => { s with sched := .read off n :: rest }
  | .write off n v :: rest, s => { s with sched := .write off n v :: rest }
  | .wait :: rest, s => { s with sched := .wait :: rest }
  | .resetAssert :: rest, s => { s with sched := .resetAssert :: rest }
  | .resetRelease :: rest, s => { s with sched := .resetRelease :: rest }

/-- The engine goes on until the next host access lands. -/
def advance (s : State) : State := advanceOn s.sched s

/-- A line that makes no clock cycle and no decision: the lines of the commands that complete inside the CMD write
(10_state.md R29). -/
def Op.cycleFree : Op → Bool
  | .setDirection _ => true
  | .parityOfWdata => true
  | .complete _ => true
  | .pulseClock => false
  | .readBit _ => false
  | .writeBit _ => false
  | .enterState _ => false
  | .newTransaction => false
  | .testAck1 _ _ => false
  | .testAck2 _ => false
  | .testIdAck => false
  | .takePerr => false
  | .transactionOk => false
  | .dumpCheck => false
  | .dumpRead _ _ => false
  | .storeWord _ => false

/-- The state right after a CMD write's acceptance: the operands latched, BUSY set, the pseudocode at its first line
(30_encoding.md R90, 10_state.md R46), and the session state the acceptance enters, if any (42_session.md R161). -/
def accepted (i : Instr) (enter : Option SState) (prog : Params → Latch → List Op) (s : State) : State :=
  { s with
    sstate := enter.getD s.sstate
    engine := .running { latch := latchOf i s, shadow := Shadow.start, prog := prog s.params (latchOf i s) } }

/-- The CMD write of a command (30_encoding.md R90): ErrBusy, else ErrCmd, else accepted; a command with no clock cycle
completes inside the write (10_state.md R29). -/
def cmdWrite (i : Instr) (enter : Option SState) (prog : Params → Latch → List Op) (s : State) : State :=
  if s.busy then raiseErrBusy s
  else if i.wellFormed then
    if (prog s.params (latchOf i s)).all Op.cycleFree then runToEnd (accepted i enter prog s) else accepted i enter prog s
  else raiseErrCmd s

/-- A command's meaning: its CMD write, and the engine steps up to the next host access. -/
def issue (i : Instr) (enter : Option SState) (prog : Params → Latch → List Op) (s : State) :
    Host.Outcome State Fault Refusal :=
  .next (advance (cmdWrite i enter prog s))

end Sys2Proof.Machine
end

