-- ==== Sys2Proof/Machine/Bus.lean ====
section
/-! DEFINITION. Host accesses to the window (spec/20_memory.md R60-R65, 10_state.md R25-R51). -/

namespace Sys2Proof.Machine

/-- Offsets of the registers (10_state.md R25). -/
def offCmd : Nat := 0x000
/-- STATUS. -/
def offStatus : Nat := 0x004
/-- WDATA. -/
def offWdata : Nat := 0x008
/-- RDATA. -/
def offRdata : Nat := 0x00C
/-- DLEN. -/
def offDlen : Nat := 0x010
/-- IDCODE. -/
def offIdcode : Nat := 0x014
/-- ACKS. -/
def offAcks : Nat := 0x018
/-- DCOUNT. -/
def offDcount : Nat := 0x01C
/-- CYCCNT. -/
def offCyccnt : Nat := 0x020
/-- PINS. -/
def offPins : Nat := 0x024
/-- PARAM0. -/
def offParam0 : Nat := 0x028
/-- PARAM1. -/
def offParam1 : Nat := 0x02C

/-- The value of the register at an offset, where there is one (R25, R61). -/
def regRead (s : State) (off : Nat) : Option Word :=
  if off = offCmd then some 0#32
  else if off = offStatus then some (statusWord s)
  else if off = offWdata then some s.wdata
  else if off = offRdata then some s.rdata
  else if off = offDlen then some s.dlen
  else if off = offIdcode then some s.idcode
  else if off = offAcks then some s.acks
  else if off = offDcount then some s.dcount
  else if off = offCyccnt then some s.cyccnt
  else if off = offPins then some (pinsWord s)
  else if off = offParam0 then some (param0Word s.params)
  else if off = offParam1 then some (param1Word s.params)
  else none

/-- A read of BUF at `0x1000 + i`: 8 bits anywhere, or 32 bits aligned (R62); every other read is a bus error (R63). -/
def bufRead (s : State) (i n : Nat) : BusResp :=
  if n = 1 then .data ((bufByte s i).setWidth 32)
  else if n = 4 ∧ i % 4 = 0 then .data (bufWord s i)
  else .error

/-- `MemRead(off, n)`: what the bus answers (R61-R63). A register access is 32 bits wide. -/
def hostRead (s : State) (off n : Nat) : BusResp :=
  if off < bufBase then
    match regRead s off with
    | some v => if n = 4 then .data v else .error
    | none => .error
  else if off < bufBase + s.params.dumpCapacity then bufRead s (off - bufBase) n
  else .error

/-- A write to STATUS: bits 1 and 2 are write-1-to-clear, the rest is ignored (10_state.md R28). -/
def writeStatus (v : Word) (s : State) : State :=
  { s with errCmd := s.errCmd && !v.getLsbD 1, errBusy := s.errBusy && !v.getLsbD 2 }

/-- A write to a register other than CMD (R35, R37, R28); a read-only register ignores it (R51). -/
def regWrite (off : Nat) (v : Word) (s : State) : State :=
  if off = offStatus then writeStatus v s
  else if off = offWdata then { s with wdata := v }
  else if off = offDlen then { s with dlen := v }
  else s

/-- The host address of a window offset (R60). -/
def hostAddress (p : Params) (off : Nat) : Nat := p.base + off

/-- The window offset a host address is, if the access is one to the block; an address below BASE is not (R60, log 23). -/
def windowOffset (p : Params) (addr : Nat) : Option Nat := if p.base ≤ addr then some (addr - p.base) else none

/-- What a host write is to the block. -/
inductive HostWrite where
  /-- A bus error: nothing changes (60_exceptions.md R243). -/
  | error
  /-- A register write, done. -/
  | done (s : State)
  /-- A CMD write of this word (10_state.md R26). -/
  | command (c : Word)
  deriving DecidableEq, Repr

/-- `MemWrite(off, n, v)` (R61, R63): 32 bits wide, at a register; never at BUF. -/
def hostWrite (s : State) (off n : Nat) (v : Word) : HostWrite :=
  match regRead s off with
  | some _ => if n = 4 then (if off = offCmd then .command v else .done (regWrite off v s)) else .error
  | none => .error

/-- The bus's answer to the access in progress. -/
def respond (b : BusResp) (s : State) : State := { s with resp := b }

end Sys2Proof.Machine
end

