-- ==== Sys2Proof/Machine/BitIo.lean ====
section
/-! DEFINITION. The commands that run one bit I/O primitive (spec/40_bit_io.md R124-R127). -/

namespace Sys2Proof.Machine

/-- PULSE (R124). -/
def execPulse (s : State) : Host.Outcome State Fault Refusal :=
  issue .pulse none (fun _ _ => [.pulseClock, .complete .plain]) s

/-- RDBIT (R125). -/
def execRdbit (s : State) : Host.Outcome State Fault Refusal :=
  issue .rdbit none (fun _ _ => [.readBit (.value 0), .complete .value]) s

/-- WRBIT v: `WriteBit(L_CMD.B[0])` (R126). -/
def execWrbit (v : Bool) (s : State) : Host.Outcome State Fault Refusal :=
  issue (.wrbit v) none (fun _ l => [.writeBit l.bit, .complete .plain]) s

/-- SETDIR d: `SetDirection(if L_CMD.B[0] = 1 then OUT else IN)`, inside the CMD write (R127). -/
def execSetdir (d : Dir) (s : State) : Host.Outcome State Fault Refusal :=
  issue (.setdir d) none (fun _ l => [.setDirection l.direction, .complete .plain]) s

end Sys2Proof.Machine
end

