-- ==== Sys2Proof/Machine/Codec.lean ====
section
/-! DEFINITION. The commands of the bit-sequence codec (spec/41_codec.md R143-R145). -/

namespace Sys2Proof.Machine

/-- WRBITS n: `WriteBits(L_WDATA, L_CMD.N)` (R143). -/
def execWrbits (n : BitVec 6) (s : State) : Host.Outcome State Fault Refusal :=
  issue (.wrbits n) none (fun _ l => writeBits l.value l.count ++ [.complete .plain]) s

/-- RDBITS n: `r <- ReadBits(L_CMD.N)` (R144). -/
def execRdbits (n : BitVec 6) (s : State) : Host.Outcome State Fault Refusal :=
  issue (.rdbits n) none (fun _ l => readBits .value l.count ++ [.complete .value]) s

/-- PARITY: `p <- Parity(L_WDATA)`, inside the CMD write (R145). -/
def execParity (s : State) : Host.Outcome State Fault Refusal :=
  issue .parity none (fun _ _ => [.parityOfWdata, .complete .value]) s

end Sys2Proof.Machine
end

