-- ==== Sys2Proof/Machine/Dump.lean ====
section
/-! DEFINITION. DUMP (spec/44_dump.md R221). -/

namespace Sys2Proof.Machine

/-- DUMP: refused for capacity inside the CMD write, or three setup writes and the read loop (R221-R228). -/
def execDump (s : State) : Host.Outcome State Fault Refusal :=
  issue .dump none (fun p l => dumpProg p l) s

end Sys2Proof.Machine
end

