-- ==== Sys2Proof/Machine/Session.lean ====
section
/-! DEFINITION. CONNECT, the whole protocol session (spec/42_session.md R166). -/

namespace Sys2Proof.Machine

/-- CONNECT: SSTATE is WAKE at acceptance, before the first cycle (R160, R161, R166). -/
def execConnect (s : State) : Host.Outcome State Fault Refusal :=
  issue .connect (some .wake) (fun p _ => connectProg p) s

end Sys2Proof.Machine
end

