-- ==== Sys2Proof/Machine/Transaction.lean ====
section
/-! DEFINITION. The commands that run one register transaction (spec/43_transaction.md R198, R199). -/

namespace Sys2Proof.Machine

/-- XFER.RD r: `T <- Transact(L_CMD.B, RD, 0)` (R198). -/
def execXferRd (r : Byte) (s : State) : Host.Outcome State Fault Refusal :=
  issue (.xferRd r) none (fun _ l => transact l.request .rd ++ [.complete .xferRd]) s

/-- XFER.WR r: `T <- Transact(L_CMD.B, WR, L_WDATA)` (R199). -/
def execXferWr (r : Byte) (s : State) : Host.Outcome State Fault Refusal :=
  issue (.xferWr r) none (fun _ l => transact l.request (.wr l.value) ++ [.complete .xferWr]) s

end Sys2Proof.Machine
end

