-- ==== Sys2Proof/Machine/Dispatch.lean ====
section
/-! DEFINITION. One arm per command: its CMD write (spec/30_encoding.md R90) with its meaning. -/

namespace Sys2Proof.Machine

def exec (i : Instr) (s : State) : Host.Outcome State Fault Refusal :=
  match i with
  | .pulse => Sys2Proof.Machine.execPulse s
  | .rdbit => Sys2Proof.Machine.execRdbit s
  | .wrbit v => Sys2Proof.Machine.execWrbit v s
  | .setdir d => Sys2Proof.Machine.execSetdir d s
  | .wrbits n => Sys2Proof.Machine.execWrbits n s
  | .rdbits n => Sys2Proof.Machine.execRdbits n s
  | .parity => Sys2Proof.Machine.execParity s
  | .connect => Sys2Proof.Machine.execConnect s
  | .xferRd r => Sys2Proof.Machine.execXferRd r s
  | .xferWr r => Sys2Proof.Machine.execXferWr r s
  | .dump => Sys2Proof.Machine.execDump s

end Sys2Proof.Machine
end

