-- ==== Sys2Proof/Machine/Access.lean ====
section
/-! DEFINITION. One event of the total order (spec/20_memory.md R72): an engine step, a host access, the reset input. -/

namespace Sys2Proof.Machine

/-- A CMD write of the word c (30_encoding.md R90): the command it decodes to runs, or the word is refused. -/
def commandWrite (c : Word) (s : State) : Host.Outcome State Fault Refusal :=
  match decode c with
  | .ok i => exec i s
  | .error _ => .next (advance (refuseWord s))

/-- One event. A host access while reset is asserted is outside the spec's model (70_reset_and_hazards.md R270). -/
def stepEvent (e : Event) (s : State) : Host.Outcome State Fault Refusal :=
  match e with
  | .engine => .next (advance (engineStep s))
  | .read off n => if s.inReset then .refused .accessDuringReset else .next (advance (respond (hostRead s off n) s))
  | .write off n v =>
    if s.inReset then .refused .accessDuringReset
    else
      match hostWrite s off n v with
      | .error => .next (advance (respond .error s))
      | .done s' => .next (advance (respond .written s'))
      | .command c => commandWrite c (respond .written s)
  | .wait =>
    if s.inReset then .refused .accessDuringReset
    else .next (advance (respond (.data (statusWord (runToEnd s))) (runToEnd s)))
  | .resetAssert => .next (advance (assertReset s))
  | .resetRelease => .next (advance (releaseReset s))

end Sys2Proof.Machine
end

