-- ==== Sys2Proof/Machine/Step.lean ====
section
/-! DEFINITION. The step: the next event of the total order (spec/20_memory.md R72) and the engine steps that follow it up
to the next host access. -/

namespace Sys2Proof.Machine

/-- One step of the machine. With nothing scheduled the engine runs on, or, idle, does nothing (60_exceptions.md R262). -/
def step (s : State) : Host.Outcome State Fault Refusal :=
  match s.sched with
  | [] => .next (advance s)
  | e :: rest => stepEvent e { s with sched := rest }

/-- s with a 32-bit CMD write of the table word as the next event, the engine idle and reset released, so that the next
step accepts and runs it (assumption log 11). -/
def State.withFetchWord (s : State) (nbits w : Nat) : State :=
  { s with engine := .idle, inReset := false, sched := .write offCmd 4 (wordOfBits nbits w) :: s.sched }

end Sys2Proof.Machine
end

