-- ==== Sys2Proof/Machine/HostProgram.lean ====
section
/-! DEFINITION. The host-program syntax and the pseudo-commands (spec/30_encoding.md R96, R97), and accesses
at addresses of the host's map (20_memory.md R60), as schedules. -/

namespace Sys2Proof.Machine

/-- A host read of n bytes at an address of the host's map (20_memory.md R60). -/
def busRead (p : Params) (addr n : Nat) : List Event := (windowOffset p addr).toList.map (.read · n)

/-- A host write of n bytes at an address of the host's map (20_memory.md R60). -/
def busWrite (p : Params) (addr n : Nat) (v : Word) : List Event := (windowOffset p addr).toList.map (.write · n v)

/-- `wr REG, v` (R96). -/
def hostWr (off : Nat) (v : Word) : List Event := [.write off 4 v]

/-- `rd REG` (R96). -/
def hostRd (off : Nat) : List Event := [.read off 4]

/-- `rdb i` (R96). -/
def hostRdb (i : Nat) : List Event := [.read (bufBase + i) 1]

/-- `cmd <command>` (R96). -/
def hostCmd (i : Instr) : List Event := hostWr offCmd (encode i)

/-- `wait` (R96). -/
def hostWait : List Event := [.wait]

/-- `IDLE n` (R97). -/
def pseudoIdle (n : BitVec 6) : List Event := hostWr offWdata 0#32 ++ hostCmd (.wrbits n) ++ hostWait

/-- `CLRERR` (R97). -/
def pseudoClrerr : List Event := hostWr offWdata abortPayload ++ hostCmd (.xferWr reqAbort) ++ hostWait

/-- `SELBANK0` (R97). -/
def pseudoSelbank0 : List Event := hostWr offWdata selectPayload ++ hostCmd (.xferWr reqSelect) ++ hostWait

/-- `SETADDR a` (R97). -/
def pseudoSetaddr (a : Word) : List Event := hostWr offWdata a ++ hostCmd (.xferWr reqAddress) ++ hostWait

/-- `RDDATA` (R97). -/
def pseudoRddata : List Event := hostCmd (.xferRd reqData) ++ hostWait ++ hostRd offRdata

/-- `RDID` (R97). -/
def pseudoRdid : List Event := hostCmd (.xferRd reqId) ++ hostWait ++ hostRd offRdata

end Sys2Proof.Machine
end

