-- ==== Sys2Proof/Safety.lean ====
section
/-! DEFINITION. The words statements are made of: traces of cycles (spec/00_scope.md R11, 43_transaction.md R203), what a
run of cycles leaves, which draws come, and the invariants of the block. -/

namespace Sys2Proof.Machine

/-! ## Traces -/

/-- `W:b`: drives b, samples nothing (R11). -/
def wireW (b : Bool) : Cycle := { drv := some b, smp := none }

/-- `Z`: the line released, no sample (R11). -/
def wireZ : Cycle := { drv := none, smp := none }

/-- `R:b`: the line released, b sampled (R11). -/
def wireR (b : Bool) : Cycle := { drv := none, smp := some b }

/-- The cycles that send the low n bits of v, LSB first (20_memory.md R66). -/
def sent {w : Nat} (v : BitVec w) (n : Nat) : List Cycle := (List.range n).map (fun i => wireW (v.getLsbD i))

/-- The cycles that sample the low n bits of v, LSB first (R66). -/
def got {w : Nat} (v : BitVec w) (n : Nat) : List Cycle := (List.range n).map (fun i => wireR (v.getLsbD i))

/-- A request, its turnaround and its ACK: 12 cycles (43_transaction.md R190). -/
def requestTrace (r : Byte) (a : Ack) : List Cycle := sent r 8 ++ (wireZ :: got a 3)

/-- TurnToWrite: WR_TRN released cycles (R192). -/
def turnTrace (p : Params) : List Cycle := List.replicate p.wrTrn wireZ

/-- Four idle bits (30_encoding.md R100). -/
def idleTrace : List Cycle := sent Config.idleBits 4

/-- A read data phase: 37 cycles (R193). -/
def readTrace (d : Word) (par : Bool) : List Cycle := got d 32 ++ (wireR par :: idleTrace)

/-- A write data phase: WR_TRN + 37 cycles (R194). -/
def writeTrace (p : Params) (v : Word) : List Cycle := turnTrace p ++ (sent v 32 ++ (wireW (parity v) :: idleTrace))

/-- The recovery up to the reissued ACK (R196, R203). -/
def recoverTrace (p : Params) (r : Byte) (aa a2 : Ack) : List Cycle :=
  turnTrace p ++ (requestTrace reqAbort aa ++ (writeTrace p abortPayload ++ requestTrace r a2))

/-- A line reset (42_session.md R162). -/
def lineResetTrace (p : Params) : List Cycle :=
  List.replicate p.lineResetHigh (wireW true) ++ List.replicate p.lineResetIdle (wireW false)

/-- CONNECT up to the ID request's ACK (R163, R162, R164, R165, R101). -/
def connectTrace (p : Params) (a : Ack) : List Cycle :=
  sent alert 128 ++ (idleTrace ++ (sent activation 8 ++ (lineResetTrace p ++ (sent modeSwitchSeq 16 ++
    (lineResetTrace p ++ requestTrace reqId a)))))

/-! ## What a run leaves -/

/-- s after the cycles `tr` that took n draws, the line then at direction d and the output at o: CYCCNT counts the cycles
(10_state.md R41), Wire holds them (R11), SWCLK is high (R21). -/
def ran (s : State) (d : Dir) (o : Bool) (tr : List Cycle) (n : Nat) : State :=
  { skipDraws n s with
    swclk := true
    dir := d
    swdioO := o
    wire := s.wire ++ tr
    cyccnt := s.cyccnt + BitVec.ofNat 32 tr.length }

/-- The n draws from the k-th on are the bits of v, LSB first (R8). -/
def DrawsAre {w : Nat} (s : State) (k : Nat) (v : BitVec w) (n : Nat) : Prop :=
  ∀ i, i < n → drawAt s (k + i) = v.getLsbD i

/-- No command runs and no host access falls into the run of the next one. -/
def Quiet (s : State) : Prop := s.engine = .idle ∧ s.sched = []

/-- What a command does and leaves, without what host accesses in the meantime may write: WDATA, DLEN, the sticky bits,
the bus's answer and the schedule. -/
def commandView (s : State) : State :=
  { s with wdata := 0#32, dlen := 0#32, errCmd := false, errBusy := false, resp := .none, sched := [] }

/-- The draws of a DUMP of k reads under the always-OK target (92_eei_decisions.md D49): three setup ACKs, then for each
read its ACK, word and parity bit. -/
def AlwaysOk (s : State) (k : Nat) (w : Nat → Word) (par : Nat → Bool) : Prop :=
  (∀ j, j < 3 → DrawsAre s (3 * j) Config.ackOk 3) ∧
  ∀ i, i < k → DrawsAre s (9 + 36 * i) Config.ackOk 3 ∧ DrawsAre s (12 + 36 * i) (w i) 32 ∧
    drawAt s (44 + 36 * i) = par i

/-- The cycles of a DUMP under the always-OK target (44_dump.md R222, R223). -/
def dumpTrace (p : Params) (a : Word) (k : Nat) (w : Nat → Word) (par : Nat → Bool) : List Cycle :=
  (requestTrace reqAbort Config.ackOk ++ writeTrace p abortPayload) ++
    ((requestTrace reqSelect Config.ackOk ++ writeTrace p selectPayload) ++
      ((requestTrace reqAddress Config.ackOk ++ writeTrace p a) ++
        (List.range k).flatMap (fun i => requestTrace reqData Config.ackOk ++ readTrace (w i) (par i))))

/-! ## What the target answers a transaction (43_transaction.md R195, R196), and a DUMP made of transactions -/

/-- How a transaction goes, with the bits the target puts on the line: the ACKs, and the word and parity bit of a read. A
write has no word from the target; d and par are then without meaning. -/
inductive Reply where
  /-- The first ACK is ACK_OK. -/
  | clean (d : Word) (par : Bool)
  /-- The first ACK a1 is not, the abort write gets aa, the reissue ACK_OK. -/
  | recovered (a1 aa : Ack) (d : Word) (par : Bool)
  /-- Neither the first ACK a1 nor the reissue's a2 is ACK_OK. -/
  | failed (a1 aa a2 : Ack)
  deriving DecidableEq, Repr

/-- T.res = OK (R195). -/
def Reply.succeeds : Reply → Bool
  | .clean _ _ => true
  | .recovered _ _ _ _ => true
  | .failed _ _ _ => false

/-- The transaction issued an abort (10_state.md R32). -/
def Reply.recovers : Reply → Bool
  | .clean _ _ => false
  | .recovered _ _ _ _ => true
  | .failed _ _ _ => true

/-- The word a read gets. -/
def Reply.word : Reply → Word
  | .clean d _ => d
  | .recovered _ _ d _ => d
  | .failed _ _ _ => 0#32

/-- The draws of a data phase. -/
def XferDir.draws : XferDir → Nat
  | .rd => 33
  | .wr _ => 0

/-- The draws of a transaction. -/
def Reply.draws (x : XferDir) : Reply → Nat
  | .clean _ _ => 3 + x.draws
  | .recovered _ _ _ _ => 9 + x.draws
  | .failed _ _ _ => 9

/-- The draws from the k-th on are those of a data phase. -/
def DataDrawn (s : State) (k : Nat) (d : Word) (par : Bool) : XferDir → Prop
  | .rd => DrawsAre s k d 32 ∧ drawAt s (k + 32) = par
  | .wr _ => True

/-- The draws from the k-th on are those of this reply. -/
def Reply.Drawn (s : State) (k : Nat) (x : XferDir) : Reply → Prop
  | .clean d par => DrawsAre s k Config.ackOk 3 ∧ DataDrawn s (k + 3) d par x
  | .recovered a1 aa d par =>
    DrawsAre s k a1 3 ∧ a1 ≠ Config.ackOk ∧ DrawsAre s (k + 3) aa 3 ∧ DrawsAre s (k + 6) Config.ackOk 3 ∧
      DataDrawn s (k + 9) d par x
  | .failed a1 aa a2 =>
    DrawsAre s k a1 3 ∧ a1 ≠ Config.ackOk ∧ DrawsAre s (k + 3) aa 3 ∧ DrawsAre s (k + 6) a2 3 ∧ a2 ≠ Config.ackOk

/-- The cycles of a data phase (R193, R194). -/
def dataTrace (p : Params) (d : Word) (par : Bool) : XferDir → List Cycle
  | .rd => readTrace d par
  | .wr v => writeTrace p v

/-- The cycles of a transaction (R203). -/
def Reply.trace (p : Params) (r : Byte) (x : XferDir) : Reply → List Cycle
  | .clean d par => requestTrace r Config.ackOk ++ dataTrace p d par x
  | .recovered a1 aa d par =>
    requestTrace r a1 ++ (recoverTrace p r aa Config.ackOk ++ dataTrace p d par x)
  | .failed a1 aa a2 => requestTrace r a1 ++ (recoverTrace p r aa a2 ++ turnTrace p)

/-- T with the parity bit and PERR of a read data phase (R193, R197); a write has none. -/
def Trans.withData (t : Trans) (d : Word) (par : Bool) : XferDir → Trans
  | .rd => { t with rpar := par, perr := par ^^ parity d }
  | .wr _ => t

/-- The fields of T that ACKS shows (R201). -/
def Reply.record (x : XferDir) : Reply → Trans
  | .clean d par => { Trans.start with ack1 := Config.ackOk }.withData d par x
  | .recovered a1 aa d par => { Trans.start with ack1 := a1, acka := aa, ack2 := Config.ackOk }.withData d par x
  | .failed a1 aa a2 => { Trans.start with ack1 := a1, acka := aa, ack2 := a2 }

/-- The i-th transaction of a DUMP from address a: its request and direction (44_dump.md R222, R223). -/
def dumpRequest (a : Word) : Nat → Byte × XferDir
  | 0 => (reqAbort, .wr abortPayload)
  | 1 => (reqSelect, .wr selectPayload)
  | 2 => (reqAddress, .wr a)
  | _ + 3 => (reqData, .rd)

/-- How many draws the first m transactions of a DUMP take. -/
def dumpDraws (a : Word) (rep : Nat → Reply) : Nat → Nat
  | 0 => 0
  | m + 1 => dumpDraws a rep m + (rep m).draws (dumpRequest a m).2

/-- The cycles of the first m transactions of a DUMP. -/
def dumpCycles (p : Params) (a : Word) (rep : Nat → Reply) : Nat → List Cycle
  | 0 => []
  | m + 1 => dumpCycles p a rep m ++ (rep m).trace p (dumpRequest a m).1 (dumpRequest a m).2

/-- The target answers the first m transactions of a DUMP with `rep`. -/
def DumpDrawn (s : State) (rep : Nat → Reply) (m : Nat) : Prop :=
  ∀ i, i < m → (rep i).Drawn s (dumpDraws s.wdata rep i) (dumpRequest s.wdata i).2

/-- BUF after a DUMP stored k words on `b`: word j at BUF[4j] on, most significant byte first, every other byte as it was
(20_memory.md R68, 44_dump.md R224). -/
def WordsStored (b m : Memory) (k : Nat) (w : Nat → Word) : Prop :=
  (∀ j, j < k →
    m.read (bufBase + 4 * j) = some ((w j).extractLsb' 24 8) ∧
    m.read (bufBase + 4 * j + 1) = some ((w j).extractLsb' 16 8) ∧
    m.read (bufBase + 4 * j + 2) = some ((w j).extractLsb' 8 8) ∧
    m.read (bufBase + 4 * j + 3) = some ((w j).extractLsb' 0 8)) ∧
  ∀ a, a < bufBase ∨ bufBase + 4 * k ≤ a → m.read a = b.read a

/-! ## Frames -/

/-- t keeps of s what command i does not write (10_state.md R34-R40, R44). -/
structure CommandFrame (i : Instr) (s t : State) : Prop where
  /-- WDATA, DLEN, the instance and the inputs. -/
  operands : t.wdata = s.wdata ∧ t.dlen = s.dlen ∧ t.params = s.params ∧ t.inReset = s.inReset ∧ t.bufEpoch = s.bufEpoch ∧
    t.resp = s.resp
  /-- The sticky bits; an ill-formed command raises ErrCmd. -/
  sticky : t.errBusy = s.errBusy ∧ (i.wellFormed = true → t.errCmd = s.errCmd)
  /-- SSTATE and IDCODE are CONNECT's (R34, R38). -/
  session : i ≠ .connect → t.sstate = s.sstate ∧ t.idcode = s.idcode
  /-- DCOUNT and BUF are DUMP's (R40, R44). -/
  dump : i ≠ .dump → t.dcount = s.dcount ∧ t.buf = s.buf
  /-- RDATA (R36). -/
  rdata : i ≠ .rdbit → (∀ n, i ≠ .rdbits n) → i ≠ .parity → (∀ r, i ≠ .xferRd r) → t.rdata = s.rdata
  /-- ACKS (R39). -/
  acks : i ≠ .connect → i ≠ .dump → (∀ r, i ≠ .xferRd r) → (∀ r, i ≠ .xferWr r) → t.acks = s.acks

/-! ## Invariants -/

/-- What a line of a running command may ask: a DUMP that passed the capacity check stores and counts inside BUF
(44_dump.md R224, R225). -/
def Op.legal (p : Params) (l : Latch) : Op → Bool
  | .dumpCheck => decide (l.byteCount < p.dumpCapacity)
  | .dumpRead _ k => decide (4 * k ≤ p.dumpCapacity + 4) && decide (l.byteCount < p.dumpCapacity)
  | .storeWord k => decide (4 * k + 4 ≤ p.dumpCapacity)
  | .complete .dumpDone => decide (l.byteCount < p.dumpCapacity)
  | .complete .dumpStopped => decide (l.byteCount < p.dumpCapacity)
  | _ => true

/-- What holds of the engine: an idle engine has nothing; a running command was accepted, and its lines are legal. -/
def Engine.Legal (p : Params) : Engine → Prop
  | .idle => True
  | .running r => (∃ i, decode r.latch.cmd = .ok i) ∧ ∀ op ∈ r.prog, op.legal p r.latch = true

/-- The invariant of the block. -/
structure State.Inv (s : State) : Prop where
  /-- The parameters are in the ranges of 00_scope.md R6. -/
  params : s.params.Legal
  /-- Between cycles SWCLK is high (10_state.md R21). -/
  swclk : s.swclk = true
  /-- ACKS bits 31:11 are 0 (R39). -/
  acks : ∀ i, 11 ≤ i → s.acks.getLsbD i = false
  /-- DCOUNT counts bytes of BUF (R40, 44_dump.md R226). -/
  dcount : s.dcount.toNat < s.params.dumpCapacity
  /-- CYCCNT counts the cycles of Wire modulo 2^32 (R41, 00_scope.md R11). -/
  cycles : s.cyccnt = BitVec.ofNat 32 s.wire.length
  /-- BUF is in canonical form. -/
  canonical : s.buf.wf
  /-- Every stored byte is a byte of BUF (R44). -/
  inRange : ∀ c ∈ s.buf, bufBase ≤ c.1 ∧ c.1 < bufBase + s.params.dumpCapacity
  /-- The engine. -/
  engine : s.engine.Legal s.params
  /-- While reset is asserted no command runs (70_reset_and_hazards.md R270). -/
  reset : s.inReset = true → s.engine = .idle

/-- The states of a session under way (42_session.md R160). -/
def SState.midway : SState → Bool
  | .reset => false
  | .wake => true
  | .lineReset => true
  | .modeSwitch => true
  | .lineReset2 => true
  | .idRequest => true
  | .found => false
  | .notFound => false

/-- The states a session still enters from a state on, before it ends (R160). -/
def sessionAhead : SState → List SState
  | .reset => []
  | .wake => [.lineReset, .modeSwitch, .lineReset2, .idRequest]
  | .lineReset => [.modeSwitch, .lineReset2, .idRequest]
  | .modeSwitch => [.lineReset2, .idRequest]
  | .lineReset2 => [.idRequest]
  | .idRequest => []
  | .found => []
  | .notFound => []

/-- The transitions of R160 but for those into WAKE. -/
def sessionEdges : List (SState × SState) :=
  [(.wake, .lineReset), (.lineReset, .modeSwitch), (.modeSwitch, .lineReset2), (.lineReset2, .idRequest),
    (.idRequest, .found), (.idRequest, .notFound)]

/-- The state a line enters, if any. -/
def Op.enters : Op → Option SState
  | .enterState x => some x
  | _ => none

/-- The lines a session is made of, but for its completion. -/
def Op.inSession : Op → Bool
  | .pulseClock => true
  | .readBit _ => true
  | .writeBit _ => true
  | .setDirection _ => true
  | .enterState _ => true
  | .newTransaction => true
  | .testIdAck => true
  | .takePerr => true
  | .transactionOk => true
  | _ => false

/-- The lines that leave SSTATE alone (10_state.md R34). -/
def Op.leavesSession : Op → Bool
  | .enterState _ => false
  | .complete .session => false
  | _ => true

/-- What is left of a session in state x: its lines, entering the states ahead in their order, then its completion. -/
def SessionLeft (x : SState) (prog : List Op) : Prop :=
  ∃ lead, prog = lead ++ [.complete .session] ∧ (∀ op ∈ lead, op.inSession = true) ∧
    lead.filterMap Op.enters = sessionAhead x

/-- The session state and the engine agree: SSTATE is WAKE to ID_REQUEST exactly while CONNECT runs (R160, R161). -/
def SessionInv (s : State) : Prop :=
  match s.engine with
  | .idle => s.sstate.midway = false
  | .running r =>
    (s.sstate.midway = true ∧ SessionLeft s.sstate r.prog) ∨
      (s.sstate.midway = false ∧ ∀ op ∈ r.prog, op.leavesSession = true)

end Sys2Proof.Machine
end

