-- ==== Sys2Proof/Certificates/Slice0/Obligations.lean ====
section
/-! DEFINITION. The statements for the provers: what the rules of spec/ say each command and the machine do. A run no host
access falls into is `Quiet`; what an interleaved host access can change is the subject of `HostAccessLeavesCommandAlone`,
`HostWritesCommuteWithEngine`, `AcceptanceLatchesOperands` and `ResultsHeldUntilCompletion`. -/

open Sys2Proof Sys2Proof.Machine

/-! ## Encoding (spec/30_encoding.md) -/

/-- Every well-formed command, with every operand, decodes from its own word (R92, R93). -/
def Obligations.DecodeOfEncode : Prop := ∀ i : Instr, i.wellFormed = true → decode (encode i) = .ok i

/-- A word has one meaning: it decodes only to a well-formed command whose word it is (R95). -/
def Obligations.EncodeOfDecode : Prop :=
  ∀ (c : Word) (i : Instr), decode c = .ok i → i.wellFormed = true ∧ encode i = c

/-- The decoder accepts exactly the legal words: a row of the opcode map fits, and the count of WRBITS and RDBITS is 1 to 32
(R91). -/
def Obligations.DecoderAcceptsLegalWords : Prop :=
  ∀ c : Word, (∃ i, decode c = .ok i) ↔
    ∃ r ∈ opcodeMap, c &&& r.mask = r.value ∧
      (r = rowWrbits ∨ r = rowRdbits → 1 ≤ (nField c).toNat ∧ (nField c).toNat ≤ 32)

/-- Words written out from the spec's own table of accepted and refused words (95_test_vectors.md 2.1). -/
def Obligations.SpecWordsDecode : Prop :=
  decode 0x00000001#32 = .ok .pulse ∧ decode 0x00000103#32 = .ok (.wrbit true) ∧
  decode 0x00000104#32 = .ok (.setdir .out) ∧ decode 0x00200005#32 = .ok (.wrbits 32#6) ∧
  decode 0x00200006#32 = .ok (.rdbits 32#6) ∧ decode 0x00000007#32 = .ok .parity ∧
  decode 0x00000010#32 = .ok .connect ∧ decode 0x00009F20#32 = .ok (.xferRd 0x9F#8) ∧
  decode 0x00008B21#32 = .ok (.xferWr 0x8B#8) ∧ decode 0x00000030#32 = .ok .dump ∧
  decode 0x00210005#32 = .error .countOutOfRange ∧ decode 0x80000010#32 = .error .unusedFieldSet ∧
  decode 0x00000008#32 = .error .reservedOpcode

/-! ## The step and the acceptance (R90, 10_state.md R46, R47) -/

/-- A CMD write of a word that decodes to i runs exec of i, the write taken off the schedule and answered on the bus. -/
def Obligations.StepRunsDecodedCommand : Prop :=
  ∀ (s : State) (c : Word) (i : Instr) (rest : List Event),
    s.inReset = false → s.sched = .write offCmd 4 c :: rest → decode c = .ok i →
    step s = exec i { s with sched := rest, resp := .written }

/-- A CMD write while BUSY = 1, of any word, sets ERR_BUSY and nothing else (R27, 60_exceptions.md R242). -/
def Obligations.BusyWriteSetsErrBusyOnly : Prop :=
  ∀ (s : State) (c : Word) (rest : List Event),
    s.busy = true → s.inReset = false → s.sched = .write offCmd 4 c :: rest →
    step s = .next (advance { s with sched := rest, resp := .written, errBusy := true })

/-- A CMD write of an illegal word while BUSY = 0 sets ERR_CMD and nothing else (60_exceptions.md R241). -/
def Obligations.IllegalWordSetsErrCmdOnly : Prop :=
  ∀ (s : State) (c : Word) (rest : List Event),
    s.busy = false → s.inReset = false → s.sched = .write offCmd 4 c :: rest →
    (¬ ∃ r ∈ opcodeMap, c &&& r.mask = r.value ∧
      (r = rowWrbits ∨ r = rowRdbits → 1 ≤ (nField c).toNat ∧ (nField c).toNat ≤ 32)) →
    step s = .next (advance { s with sched := rest, resp := .written, errCmd := true })

/-- Acceptance latches the command word, WDATA and DLEN and sets BUSY (R46, R47, R90); the one register it changes is SSTATE,
and only for CONNECT, which has entered WAKE (42_session.md R161). That a host read landing right then sees WAKE already is the
model's reading (assumption log 16); it sees every other register with its value from before the command. -/
def Obligations.AcceptanceLatchesOperands : Prop :=
  ∀ (i : Instr) (s : State) (off n : Nat) (rest : List Event),
    i.wellFormed = true → s.engine = .idle → s.sched = .read off n :: rest →
    i ≠ .parity → (∀ d, i ≠ .setdir d) → (i = .dump → s.dlen.toNat < s.params.dumpCapacity) →
    ∃ r : Running, r.latch = { cmd := encode i, wdata := s.wdata, dlen := s.dlen } ∧
      exec i s = .next { s with engine := .running r, sstate := if i = .connect then .wake else s.sstate }

/-- Until the completion step the result registers hold their values from before the command (R47). -/
def Obligations.ResultsHeldUntilCompletion : Prop :=
  ∀ s : State, (engineStep s).busy = true →
    (engineStep s).rdata = s.rdata ∧ (engineStep s).idcode = s.idcode ∧ (engineStep s).acks = s.acks ∧
    (engineStep s).dcount = s.dcount ∧ (engineStep s).result = s.result ∧ (engineStep s).recovered = s.recovered

/-- Every command ends (70_reset_and_hazards.md R284): an accepted command no host access falls into answers a next state
with the engine idle, whatever the target answers. -/
def Obligations.EveryCommandEnds : Prop :=
  ∀ (i : Instr) (s : State), i.wellFormed = true → Quiet s →
    ∃ t, exec i s = .next t ∧ t.engine = .idle ∧ t.sched = []

/-- With no command running and nothing to come, nothing happens (60_exceptions.md R262). -/
def Obligations.IdleEngineDoesNothing : Prop :=
  ∀ s : State, s.engine = .idle → engineStep s = s ∧ (s.sched = [] → step s = .next s)

/-! ## Bit I/O (spec/40_bit_io.md) -/

/-- PULSE, its word and its effect (R124). -/
def Obligations.PulseMakesOneCycle : Prop :=
  encode .pulse = 0x00000001#32 ∧ ∀ s : State, Quiet s →
    exec .pulse s =
      .next { ran s s.dir s.swdioO [{ drv := if s.dir = .out then some s.swdioO else none, smp := none }] 0 with
        result := .none, recovered := false }

/-- RDBIT, its word and its effect (R125), in either direction of the line (R121). -/
def Obligations.RdbitSamplesOneBit : Prop :=
  encode .rdbit = 0x00000002#32 ∧ ∀ (s : State) (b : Bool), Quiet s → drawAt s 0 = b →
    exec .rdbit s =
      .next { ran s s.dir s.swdioO [{ drv := if s.dir = .out then some s.swdioO else none, smp := some b }] 1 with
        rdata := if b then 1#32 else 0#32, result := .none, recovered := false }

/-- WRBIT, its words and its effect (R126), in either direction of the line (R122); a SETDIR OUT that comes later puts the value
on the line, where the next cycle shows it. -/
def Obligations.WrbitSetsOutputAndCycles : Prop :=
  (encode (.wrbit false) = 0x00000003#32 ∧ encode (.wrbit true) = 0x00000103#32) ∧ ∀ (v : Bool) (s : State), Quiet s →
    exec (.wrbit v) s =
      .next { ran s s.dir v [{ drv := if s.dir = .out then some v else none, smp := none }] 0 with
        result := .none, recovered := false } ∧
    ∃ t u w, exec (.wrbit v) s = .next t ∧ exec (.setdir .out) t = .next u ∧ driven u = some v ∧
      exec .pulse u = .next w ∧ w.wire = t.wire ++ [wireW v]

/-- SETDIR, its words and its effect; it completes inside the CMD write, with no cycle (R127, 10_state.md R29). -/
def Obligations.SetdirCompletesInsideWrite : Prop :=
  (encode (.setdir .inp) = 0x00000004#32 ∧ encode (.setdir .out) = 0x00000104#32) ∧ ∀ (d : Dir) (s : State), s.engine = .idle →
    exec (.setdir d) s = .next (advance { s with dir := d, result := .none, recovered := false }) ∧
    (s.sched = [] → exec (.setdir d) s = .next { s with dir := d, result := .none, recovered := false })

/-! ## Codec (spec/41_codec.md) -/

/-- WRBITS n (R143): n cycles, the low n bits of WDATA LSB first; SWDIO_O ends as bit n - 1. -/
def Obligations.WrbitsSendsLowBitsFirst : Prop :=
  ∀ (n : BitVec 6) (s : State), 1 ≤ n.toNat → n.toNat ≤ 32 → Quiet s →
    encode (.wrbits n) = 0x00000005#32 ||| n.setWidth 32 <<< 16 ∧
    exec (.wrbits n) s =
      .next { ran s s.dir (s.wdata.getLsbD (n.toNat - 1))
          ((List.range n.toNat).map fun i =>
            { drv := if s.dir = .out then some (s.wdata.getLsbD i) else none, smp := none }) 0 with
        result := .none, recovered := false }

/-- RDBITS n (R144): n cycles, the i-th bit read at bit i of RDATA, the upper bits 0. -/
def Obligations.RdbitsAssemblesLsbFirst : Prop :=
  ∀ (n : BitVec 6) (v : Word) (s : State), 1 ≤ n.toNat → n.toNat ≤ 32 → Quiet s →
    DrawsAre s 0 v n.toNat → (∀ i, n.toNat ≤ i → v.getLsbD i = false) →
    encode (.rdbits n) = 0x00000006#32 ||| n.setWidth 32 <<< 16 ∧
    exec (.rdbits n) s =
      .next { ran s s.dir s.swdioO
          ((List.range n.toNat).map fun i =>
            { drv := if s.dir = .out then some s.swdioO else none, smp := some (v.getLsbD i) }) n.toNat with
        rdata := v, result := .none, recovered := false }

/-- PARITY, its word and its effect (R145), inside the CMD write: 1 exactly when WDATA has an odd number of 1 bits. -/
def Obligations.ParityCompletesInsideWrite : Prop :=
  encode .parity = 0x00000007#32 ∧ ∀ s : State, s.engine = .idle →
    exec .parity s =
      .next (advance { s with
        rdata := if popcount s.wdata % 2 = 1 then 1#32 else 0#32, result := .none, recovered := false }) ∧
    (s.sched = [] → exec .parity s =
      .next { s with
        rdata := if popcount s.wdata % 2 = 1 then 1#32 else 0#32, result := .none, recovered := false })

/-- Parity is the exclusive or of the 32 bits (R142). -/
def Obligations.ParityIsXorOfBits : Prop :=
  ∀ v : Word, parity v = (List.range 32).foldl (fun b i => b ^^ v.getLsbD i) false

/-- The round trip over a loopback target (R146 law 2): WRBITS n, SETDIR IN, RDBITS n leave the low n bits of WDATA in
RDATA. -/
def Obligations.LoopbackRoundTrip : Prop :=
  ∀ (n : BitVec 6) (s : State), 1 ≤ n.toNat → n.toNat ≤ 32 → Quiet s → s.dir = .out →
    (∀ i, i < n.toNat → drawAt s i = s.wdata.getLsbD i) →
    ∃ t u v, exec (.wrbits n) s = .next t ∧ exec (.setdir .inp) t = .next u ∧ exec (.rdbits n) u = .next v ∧
      (∀ i, v.rdata.getLsbD i = (decide (i < n.toNat) && s.wdata.getLsbD i)) ∧
      v.wire = s.wire ++ (sent s.wdata n.toNat ++ got s.wdata n.toNat)

/-! ## Session (spec/42_session.md) -/

/-- CONNECT whose ID request gets ACK_OK (R166): the whole wire trace, FOUND, the identification word, ACKS. -/
def Obligations.ConnectFindsDevice : Prop :=
  ∀ (s : State) (d : Word) (par : Bool), Quiet s →
    DrawsAre s 0 Config.ackOk 3 → DrawsAre s 3 d 32 → drawAt s 35 = par →
    exec .connect s =
      .next { ran s .out false (connectTrace s.params Config.ackOk ++ readTrace d par) 36 with
        sstate := .found, result := .found, recovered := false, idcode := d
        acks := packAcks { Trans.start with ack1 := Config.ackOk, rpar := par, perr := par ^^ parity d } }

/-- CONNECT whose ID request gets any other ACK (R166, R165): NOT_FOUND, IDCODE 0, no recovery, the line taken back. -/
def Obligations.ConnectFindsNothing : Prop :=
  ∀ (s : State) (a : Ack), Quiet s → DrawsAre s 0 a 3 → a ≠ Config.ackOk →
    exec .connect s =
      .next { ran s .out true (connectTrace s.params a ++ turnTrace s.params) 3 with
        sstate := .notFound, result := .notFound, recovered := false, idcode := 0#32
        acks := packAcks { Trans.start with ack1 := a } }

/-- The session invariant holds after reset. -/
def Obligations.ResetMeetsSessionInvariant : Prop := SessionInv State.reset

/-- Every step keeps the session invariant: SSTATE is WAKE to ID_REQUEST exactly while CONNECT runs, and what is left of the
command enters the states ahead in the order of R160. -/
def Obligations.StepKeepsSessionInvariant : Prop :=
  ∀ s t : State, SessionInv s → step s = .next t → SessionInv t

/-- An engine step takes SSTATE only along a transition of R160. -/
def Obligations.SessionTakesOnlyItsTransitions : Prop :=
  ∀ s : State, SessionInv s →
    (engineStep s).sstate = s.sstate ∨ (s.sstate, (engineStep s).sstate) ∈ sessionEdges

/-! ## Transactions (spec/43_transaction.md) -/

/-- XFER.RD whose first ACK is OK (R198). -/
def Obligations.XferRdFirstAckOk : Prop :=
  ∀ (r : Byte) (s : State) (d : Word) (par : Bool), Quiet s →
    DrawsAre s 0 Config.ackOk 3 → DrawsAre s 3 d 32 → drawAt s 35 = par →
    exec (.xferRd r) s =
      .next { ran s .out false (requestTrace r Config.ackOk ++ readTrace d par) 36 with
        result := .ok, recovered := false, rdata := d
        acks := packAcks { Trans.start with ack1 := Config.ackOk, rpar := par, perr := par ^^ parity d } }

/-- XFER.RD that recovers (R196, R198): the abort write whatever its ACK, the reissue, the read. -/
def Obligations.XferRdRecovers : Prop :=
  ∀ (r : Byte) (s : State) (a1 aa : Ack) (d : Word) (par : Bool), Quiet s →
    DrawsAre s 0 a1 3 → a1 ≠ Config.ackOk → DrawsAre s 3 aa 3 → DrawsAre s 6 Config.ackOk 3 →
    DrawsAre s 9 d 32 → drawAt s 41 = par →
    exec (.xferRd r) s =
      .next { ran s .out false
          (requestTrace r a1 ++ (recoverTrace s.params r aa Config.ackOk ++ readTrace d par)) 42 with
        result := .ok, recovered := true, rdata := d
        acks := packAcks { Trans.start with
          ack1 := a1, acka := aa, ack2 := Config.ackOk, rpar := par, perr := par ^^ parity d } }

/-- XFER.RD whose recovery fails (R196, R198): RESULT FAIL, RDATA as it was, the line taken back. -/
def Obligations.XferRdFails : Prop :=
  ∀ (r : Byte) (s : State) (a1 aa a2 : Ack), Quiet s →
    DrawsAre s 0 a1 3 → a1 ≠ Config.ackOk → DrawsAre s 3 aa 3 → DrawsAre s 6 a2 3 → a2 ≠ Config.ackOk →
    exec (.xferRd r) s =
      .next { ran s .out (r.getLsbD 7)
          (requestTrace r a1 ++ (recoverTrace s.params r aa a2 ++ turnTrace s.params)) 9 with
        result := .fail, recovered := true
        acks := packAcks { Trans.start with ack1 := a1, acka := aa, ack2 := a2 } }

/-- XFER.WR whose first ACK is OK (R199): the payload is WDATA, its parity the engine's. -/
def Obligations.XferWrFirstAckOk : Prop :=
  ∀ (r : Byte) (s : State), Quiet s → DrawsAre s 0 Config.ackOk 3 →
    exec (.xferWr r) s =
      .next { ran s .out false (requestTrace r Config.ackOk ++ writeTrace s.params s.wdata) 3 with
        result := .ok, recovered := false, acks := packAcks { Trans.start with ack1 := Config.ackOk } }

/-- XFER.WR that recovers (R196, R199). -/
def Obligations.XferWrRecovers : Prop :=
  ∀ (r : Byte) (s : State) (a1 aa : Ack), Quiet s →
    DrawsAre s 0 a1 3 → a1 ≠ Config.ackOk → DrawsAre s 3 aa 3 → DrawsAre s 6 Config.ackOk 3 →
    exec (.xferWr r) s =
      .next { ran s .out false
          (requestTrace r a1 ++ (recoverTrace s.params r aa Config.ackOk ++ writeTrace s.params s.wdata)) 9 with
        result := .ok, recovered := true
        acks := packAcks { Trans.start with ack1 := a1, acka := aa, ack2 := Config.ackOk } }

/-- XFER.WR whose recovery fails (R196, R199). -/
def Obligations.XferWrFails : Prop :=
  ∀ (r : Byte) (s : State) (a1 aa a2 : Ack), Quiet s →
    DrawsAre s 0 a1 3 → a1 ≠ Config.ackOk → DrawsAre s 3 aa 3 → DrawsAre s 6 a2 3 → a2 ≠ Config.ackOk →
    exec (.xferWr r) s =
      .next { ran s .out (r.getLsbD 7)
          (requestTrace r a1 ++ (recoverTrace s.params r aa a2 ++ turnTrace s.params)) 9 with
        result := .fail, recovered := true
        acks := packAcks { Trans.start with ack1 := a1, acka := aa, ack2 := a2 } }

/-- The cycle counts of a transaction, whatever the target answers (R203): clean, recovered or failed. 44_dump.md R231 counts a
recovered read otherwise; the model follows R203 (assumption log 22). -/
def Obligations.TransactionCycleCounts : Prop :=
  ∀ (r : Byte) (s : State), Quiet s →
    (∃ t tr, exec (.xferRd r) s = .next t ∧ t.wire = s.wire ++ tr ∧
      ((t.result = .ok ∧ t.recovered = false ∧ tr.length = 49) ∨
        (t.result = .ok ∧ t.recovered = true ∧ tr.length = 110 + 2 * s.params.wrTrn) ∨
        (t.result = .fail ∧ t.recovered = true ∧ tr.length = 73 + 3 * s.params.wrTrn))) ∧
    (∃ t tr, exec (.xferWr r) s = .next t ∧ t.wire = s.wire ++ tr ∧
      ((t.result = .ok ∧ t.recovered = false ∧ tr.length = 49 + s.params.wrTrn) ∨
        (t.result = .ok ∧ t.recovered = true ∧ tr.length = 110 + 3 * s.params.wrTrn) ∨
        (t.result = .fail ∧ t.recovered = true ∧ tr.length = 73 + 3 * s.params.wrTrn)))

/-- The layout of ACKS (R201, 10_state.md R39). -/
def Obligations.AcksLayout : Prop :=
  ∀ t : Trans, (packAcks t).extractLsb' 0 3 = t.ack1 ∧ (packAcks t).extractLsb' 3 3 = t.acka ∧
    (packAcks t).extractLsb' 6 3 = t.ack2 ∧ (packAcks t).getLsbD 9 = t.rpar ∧ (packAcks t).getLsbD 10 = t.perr ∧
    ∀ i, 11 ≤ i → (packAcks t).getLsbD i = false

/-! ## Dump (spec/44_dump.md) -/

/-- DUMP with n at or above the capacity is refused inside the CMD write (R225). -/
def Obligations.DumpRefusedForCapacity : Prop :=
  ∀ s : State, s.engine = .idle → s.params.dumpCapacity ≤ s.dlen.toNat →
    exec .dump s = .next (advance { s with result := .capExceeded, recovered := false, dcount := 0#32 }) ∧
    (s.sched = [] → exec .dump s = .next { s with result := .capExceeded, recovered := false, dcount := 0#32 })

/-- DUMP under the always-OK target (R221-R224, R228): three setup writes, ceil(n/4) + 1 reads, the first word discarded,
the others stored most significant byte first from BUF[0] on, every other byte of BUF alone. -/
def Obligations.DumpStoresWordsInOrder : Prop :=
  ∀ (s : State) (w : Nat → Word) (par : Nat → Bool), Quiet s → s.dlen.toNat < s.params.dumpCapacity →
    AlwaysOk s ((s.dlen.toNat + 3) / 4 + 1) w par →
    ∃ m : Memory,
      exec .dump s =
        .next { ran s .out false (dumpTrace s.params s.wdata ((s.dlen.toNat + 3) / 4 + 1) w par)
            (9 + 36 * ((s.dlen.toNat + 3) / 4 + 1)) with
          result := .ok, recovered := false, dcount := s.dlen, buf := m
          acks := packAcks { Trans.start with
            ack1 := Config.ackOk
            rpar := par ((s.dlen.toNat + 3) / 4)
            perr := par ((s.dlen.toNat + 3) / 4) ^^ parity (w ((s.dlen.toNat + 3) / 4)) } } ∧
      (∀ j, j < (s.dlen.toNat + 3) / 4 →
        m.read (bufBase + 4 * j) = some ((w (j + 1)).extractLsb' 24 8) ∧
        m.read (bufBase + 4 * j + 1) = some ((w (j + 1)).extractLsb' 16 8) ∧
        m.read (bufBase + 4 * j + 2) = some ((w (j + 1)).extractLsb' 8 8) ∧
        m.read (bufBase + 4 * j + 3) = some ((w (j + 1)).extractLsb' 0 8)) ∧
      ∀ a, a < bufBase ∨ bufBase + 4 * ((s.dlen.toNat + 3) / 4) ≤ a → m.read a = s.buf.read a

/-- DUMP whose first setup write fails stops there (R227): FAIL, DCOUNT 0, BUF alone. -/
def Obligations.DumpStopsOnFailedSetup : Prop :=
  ∀ (s : State) (a1 aa a2 : Ack), Quiet s → s.dlen.toNat < s.params.dumpCapacity →
    DrawsAre s 0 a1 3 → a1 ≠ Config.ackOk → DrawsAre s 3 aa 3 → DrawsAre s 6 a2 3 → a2 ≠ Config.ackOk →
    exec .dump s =
      .next { ran s .out true
          (requestTrace reqAbort a1 ++ (recoverTrace s.params reqAbort aa a2 ++ turnTrace s.params)) 9 with
        result := .fail, recovered := true, dcount := 0#32
        acks := packAcks { Trans.start with ack1 := a1, acka := aa, ack2 := a2 } }

/-- DUMP whatever the target answers (R226, R227, R232): it ends in OK with DCOUNT = n or in FAIL with DCOUNT at most n, and
leaves the session, the other result registers and every byte of BUF outside the first ceil(n/4) words alone. -/
def Obligations.DumpOutcomeAndFrame : Prop :=
  ∀ s : State, Quiet s → s.dlen.toNat < s.params.dumpCapacity →
    ∃ t, exec .dump s = .next t ∧ t.engine = .idle ∧
      ((t.result = .ok ∧ t.dcount = s.dlen) ∨ (t.result = .fail ∧ t.dcount.toNat ≤ s.dlen.toNat)) ∧
      t.rdata = s.rdata ∧ t.idcode = s.idcode ∧ t.sstate = s.sstate ∧ t.wdata = s.wdata ∧ t.dlen = s.dlen ∧
      t.errCmd = s.errCmd ∧ t.errBusy = s.errBusy ∧ t.params = s.params ∧
      ∀ a, a < bufBase ∨ bufBase + 4 * ((s.dlen.toNat + 3) / 4) ≤ a → t.buf.read a = s.buf.read a

/-- StoreWordBE (20_memory.md R68): most significant byte first, every other byte alone. -/
def Obligations.StoreWordIsBigEndian : Prop :=
  ∀ (k : Nat) (w : Word) (s : State),
    bufByte (storeWordBE k w s) (4 * k) = w.extractLsb' 24 8 ∧
    bufByte (storeWordBE k w s) (4 * k + 1) = w.extractLsb' 16 8 ∧
    bufByte (storeWordBE k w s) (4 * k + 2) = w.extractLsb' 8 8 ∧
    bufByte (storeWordBE k w s) (4 * k + 3) = w.extractLsb' 0 8 ∧
    ∀ i, i < 4 * k ∨ 4 * k + 4 ≤ i → bufByte (storeWordBE k w s) i = bufByte s i

/-! ## The host window (spec/20_memory.md, 10_state.md) -/

/-- A host read changes nothing in the block (R64): only the bus's answer. -/
def Obligations.HostReadHasNoSideEffect : Prop :=
  ∀ (s : State) (off n : Nat) (rest : List Event), s.inReset = false → s.sched = .read off n :: rest →
    step s = .next (advance { s with sched := rest, resp := hostRead s off n })

/-- Every register read at its offset (R25, R61). -/
def Obligations.RegistersReadAtTheirOffsets : Prop :=
  ∀ s : State,
    hostRead s 0x000 4 = .data 0#32 ∧ hostRead s 0x004 4 = .data (statusWord s) ∧
    hostRead s 0x008 4 = .data s.wdata ∧ hostRead s 0x00C 4 = .data s.rdata ∧
    hostRead s 0x010 4 = .data s.dlen ∧ hostRead s 0x014 4 = .data s.idcode ∧
    hostRead s 0x018 4 = .data s.acks ∧ hostRead s 0x01C 4 = .data s.dcount ∧
    hostRead s 0x020 4 = .data s.cyccnt ∧ hostRead s 0x024 4 = .data (pinsWord s) ∧
    hostRead s 0x028 4 = .data (param0Word s.params) ∧ hostRead s 0x02C 4 = .data (param1Word s.params)

/-- BUF reads: 8 bits anywhere, 32 bits aligned and little-endian (R62). That an 8-bit read answers the byte zero-extended is
the model's choice (assumption log 17): the spec gives the bus no lanes. -/
def Obligations.BufReadsLittleEndian : Prop :=
  ∀ (s : State) (i : Nat), i < s.params.dumpCapacity →
    hostRead s (0x1000 + i) 1 = .data ((bufByte s i).setWidth 32) ∧
    (i % 4 = 0 → hostRead s (0x1000 + i) 4 =
      .data (bufByte s (i + 3) ++ bufByte s (i + 2) ++ bufByte s (i + 1) ++ bufByte s i))

/-- A stored word reads back byte-reversed (R69). -/
def Obligations.DumpedWordReadsByteReversed : Prop :=
  ∀ (s : State) (k : Nat) (w : Word), 4 * k + 4 ≤ s.params.dumpCapacity →
    hostRead (storeWordBE k w s) (0x1000 + 4 * k) 4 =
      .data (w.extractLsb' 0 8 ++ w.extractLsb' 8 8 ++ w.extractLsb' 16 8 ++ w.extractLsb' 24 8)

/-- The five kinds of access that end with a bus error and change no state, and the write to a read-only register that does
not (R63, 60_exceptions.md R243). -/
def Obligations.BusErrorsChangeNothing : Prop :=
  ∀ (s : State) (off n : Nat) (v : Word) (rest : List Event), s.inReset = false →
    ((0x030 ≤ off ∧ off < 0x1000) ∨ 0x1000 + s.params.dumpCapacity ≤ off ∨ (off < 0x030 ∧ (n ≠ 4 ∨ off % 4 ≠ 0)) →
      (s.sched = .read off n :: rest ∨ s.sched = .write off n v :: rest) →
      step s = .next (advance { s with sched := rest, resp := .error })) ∧
    (0x1000 ≤ off → off < 0x1000 + s.params.dumpCapacity → n = 2 ∨ n = 4 ∧ off % 4 ≠ 0 →
      s.sched = .read off n :: rest → step s = .next (advance { s with sched := rest, resp := .error })) ∧
    (0x1000 ≤ off → s.sched = .write off n v :: rest →
      step s = .next (advance { s with sched := rest, resp := .error })) ∧
    (off ∈ [0x00C, 0x014, 0x018, 0x01C, 0x020, 0x024, 0x028, 0x02C] → s.sched = .write off 4 v :: rest →
      step s = .next (advance { s with sched := rest, resp := .written }))

/-- Writes to WDATA and DLEN store the value, also while a command runs (R35, R37). -/
def Obligations.OperandWritesStore : Prop :=
  ∀ (s : State) (v : Word) (rest : List Event), s.inReset = false →
    (s.sched = .write 0x008 4 v :: rest →
      step s = .next (advance { s with sched := rest, resp := .written, wdata := v })) ∧
    (s.sched = .write 0x010 4 v :: rest →
      step s = .next (advance { s with sched := rest, resp := .written, dlen := v }))

/-- STATUS: its fields where R28 puts them, the codes of RESULT (R33) and SSTATE (R34), and the write that clears the sticky
bits it names. -/
def Obligations.StatusFieldsAndClears : Prop :=
  ∀ s : State,
    ((statusWord s).getLsbD 0 = s.busy ∧ (statusWord s).getLsbD 1 = s.errCmd ∧ (statusWord s).getLsbD 2 = s.errBusy ∧
      (statusWord s).getLsbD 3 = s.recovered ∧ ∀ i, 11 ≤ i → (statusWord s).getLsbD i = false) ∧
    (((statusWord s).extractLsb' 4 4 = 0#4 ↔ s.result = .none) ∧ ((statusWord s).extractLsb' 4 4 = 1#4 ↔ s.result = .ok) ∧
      ((statusWord s).extractLsb' 4 4 = 2#4 ↔ s.result = .fail) ∧ ((statusWord s).extractLsb' 4 4 = 3#4 ↔ s.result = .found) ∧
      ((statusWord s).extractLsb' 4 4 = 4#4 ↔ s.result = .notFound) ∧
      ((statusWord s).extractLsb' 4 4 = 5#4 ↔ s.result = .capExceeded)) ∧
    (((statusWord s).extractLsb' 8 3 = 0#3 ↔ s.sstate = .reset) ∧ ((statusWord s).extractLsb' 8 3 = 1#3 ↔ s.sstate = .wake) ∧
      ((statusWord s).extractLsb' 8 3 = 2#3 ↔ s.sstate = .lineReset) ∧
      ((statusWord s).extractLsb' 8 3 = 3#3 ↔ s.sstate = .modeSwitch) ∧
      ((statusWord s).extractLsb' 8 3 = 4#3 ↔ s.sstate = .lineReset2) ∧
      ((statusWord s).extractLsb' 8 3 = 5#3 ↔ s.sstate = .idRequest) ∧
      ((statusWord s).extractLsb' 8 3 = 6#3 ↔ s.sstate = .found) ∧
      ((statusWord s).extractLsb' 8 3 = 7#3 ↔ s.sstate = .notFound)) ∧
    ∀ (v : Word) (rest : List Event), s.inReset = false → s.sched = .write 0x004 4 v :: rest →
      step s =
        .next (advance { s with
          sched := rest, resp := .written
          errCmd := s.errCmd && !v.getLsbD 1, errBusy := s.errBusy && !v.getLsbD 2 })

/-- PINS and the PARAM registers (R42, R43). -/
def Obligations.PinsAndParamsLayout : Prop :=
  ∀ s : State, s.params.Legal →
    ((pinsWord s).getLsbD 0 = s.swclk ∧ (pinsWord s).getLsbD 1 = decide (s.dir = .out) ∧
      (pinsWord s).getLsbD 2 = s.swdioO ∧ ∀ i, 3 ≤ i → (pinsWord s).getLsbD i = false) ∧
    (param0Word s.params).toNat = s.params.dumpCapacity ∧
    ((param1Word s.params).extractLsb' 0 8).toNat = s.params.lineResetHigh ∧
    ((param1Word s.params).extractLsb' 8 8).toNat = s.params.lineResetIdle ∧
    ((param1Word s.params).extractLsb' 16 1).toNat = s.params.wrTrn ∧
    (∀ i, 17 ≤ i → (param1Word s.params).getLsbD i = false)

/-- Polling BUSY (R74): the host line `wait` ends with every effect of the running command done and a STATUS read whose bit 0
is 0. That one step of the machine is the host's whole wait and runs the command to its end is the model's choice (assumption
log 10). -/
def Obligations.WaitSeesCommandDone : Prop :=
  ∀ (s : State) (rest : List Event), s.inReset = false → s.sched = .wait :: rest →
    ∃ u v, u.engine = .idle ∧ u = runToEnd { s with sched := rest } ∧ v = statusWord u ∧ v.getLsbD 0 = false ∧
      step s = .next (advance { u with resp := .data v })

/-! ## Reset (spec/70_reset_and_hazards.md, 10_state.md R52) -/

/-- The reset values the spec states (R52). -/
def Obligations.ResetValues : Prop :=
  State.reset.swclk = true ∧ State.reset.dir = .inp ∧ State.reset.swdioO = false ∧ statusWord State.reset = 0#32 ∧
  State.reset.wdata = 0#32 ∧ State.reset.rdata = 0#32 ∧ State.reset.dlen = 0#32 ∧ State.reset.idcode = 0#32 ∧
  State.reset.acks = 0#32 ∧ State.reset.dcount = 0#32 ∧ State.reset.cyccnt = 0#32 ∧
  pinsWord State.reset = 0x00000001#32 ∧ State.reset.engine = .idle ∧ State.reset.wire = []

/-- Asserting reset, whatever the block was doing (R270, R271): the state of R52 in one step, a running command ended without
its completion step, BUF unspecified anew, the parameters kept, and, the model's choice (assumption log 19), the environment's
fields. Releasing it changes nothing but the input itself; with reset released the next access is served, here a read. -/
def Obligations.ResetFromAnyState : Prop :=
  ∀ (s : State) (rest : List Event),
    (s.sched = .resetAssert :: rest →
      step s = .next (advance { State.reset with
        params := s.params, draws := s.draws, drawIdx := s.drawIdx, bufEpoch := s.bufEpoch + 1, sched := rest
        inReset := true, resp := s.resp })) ∧
    (s.sched = .resetRelease :: rest → step s = .next (advance { s with sched := rest, inReset := false })) ∧
    ∀ off n, s.sched = .resetRelease :: .read off n :: rest →
      ∃ t, step s = .next t ∧ t = { s with sched := .read off n :: rest, inReset := false } ∧
        step t = .next (advance { t with sched := rest, resp := hostRead t off n })

/-- The model's choice (assumption log 7): a host access while reset is asserted, which the spec puts outside the model, is
refused by name. -/
def Obligations.AccessDuringResetRefused : Prop :=
  ∀ (s : State) (off n : Nat) (v : Word) (rest : List Event), s.inReset = true →
    (s.sched = .read off n :: rest ∨ s.sched = .write off n v :: rest ∨ s.sched = .wait :: rest) →
    step s = .refused .accessDuringReset

/-! ## The whole machine -/

/-- The invariant holds after reset. -/
def Obligations.ResetMeetsInvariant : Prop := State.reset.Inv

/-- Every step keeps the invariant: BUF canonical and inside its capacity, reserved bits 0, CYCCNT counting Wire, DCOUNT inside
BUF, SWCLK high between cycles, and a running DUMP never past BUF. -/
def Obligations.StepKeepsInvariant : Prop := ∀ s t : State, s.Inv → step s = .next t → t.Inv

/-- Wire only grows and CYCCNT counts what it grows by, except at reset (00_scope.md R11, 10_state.md R41). -/
def Obligations.WireGrowsAndIsCounted : Prop :=
  ∀ s t : State, step s = .next t → s.sched.head? ≠ some .resetAssert →
    ∃ tr, t.wire = s.wire ++ tr ∧ t.cyccnt = s.cyccnt + BitVec.ofNat 32 tr.length

/-- Which commands may write which registers (10_state.md R34-R40, R44), whatever the schedule: what exec answers, which is
the state at the first host access that falls into the run or at its end, and every state the engine then comes through, up
to the end of the run, keep the frame. What the host access itself changes is the subject of `HostAccessLeavesCommandAlone`. -/
def Obligations.CommandsWriteOnlyTheirRegisters : Prop :=
  ∀ (i : Instr) (s : State), s.engine = .idle →
    ∃ t, exec i s = .next t ∧ CommandFrame i s t ∧ CommandFrame i s (runToEnd t) ∧ (runToEnd t).engine = .idle ∧
      ∀ n, CommandFrame i s (engineRun n t)

/-- A register write by the host commutes with the engine (R46, R72): neither sees the other. -/
def Obligations.HostWritesCommuteWithEngine : Prop :=
  ∀ (s : State) (off : Nat) (v : Word),
    engineStep (regWrite off v s) = regWrite off v (engineStep s) ∧
    runToEnd (regWrite off v s) = regWrite off v (runToEnd s)

/-- A running command is not disturbed (R27, R46, R64): whatever one host access lands at whatever point of it, the command
does and leaves the same as undisturbed. -/
def Obligations.HostAccessLeavesCommandAlone : Prop :=
  ∀ (s : State) (e : Event) (off n : Nat) (v : Word), s.busy = true → s.inReset = false →
    e = .read off n ∨ e = .write off n v ∨ e = .wait →
    ∃ t, step { s with sched := [e] } = .next t ∧ t.engine = .idle ∧ commandView t = commandView (runToEnd s)

/-! ## Whatever the target answers a DUMP, the fixed constants, the window's place -/

/-- DUMP stopped by a transaction whose recovery fails (R226, R227): the m-th (from 0: three setup writes, then the reads),
after m that succeeded, clean or recovered. FAIL, the words stored so far kept, DCOUNT = min(n, 4 x words stored), and nothing
more on the wire. The cycles of a read that recovered on the way, in Wire and in CYCCNT, are those of 43_transaction.md R203;
R231 counts one more at WR_TRN = 0, and following R203 there is the model's choice (assumption log 22). -/
def Obligations.DumpStopsAtFirstFailure : Prop :=
  ∀ (s : State) (rep : Nat → Reply) (m : Nat), Quiet s → s.dlen.toNat < s.params.dumpCapacity →
    m < 3 + ((s.dlen.toNat + 3) / 4 + 1) → DumpDrawn s rep (m + 1) → (∀ i, i < m → (rep i).succeeds = true) →
    (rep m).succeeds = false →
    ∃ b : Memory,
      exec .dump s =
        .next { ran s .out true (dumpCycles s.params s.wdata rep (m + 1)) (dumpDraws s.wdata rep (m + 1)) with
          result := .fail, recovered := true, dcount := BitVec.ofNat 32 (min s.dlen.toNat (4 * (m - 4))), buf := b
          acks := packAcks ((rep m).record (dumpRequest s.wdata m).2) } ∧
      WordsStored s.buf b (m - 4) (fun j => (rep (4 + j)).word)

/-- DUMP whose transactions all succeed, each clean or by its one recovery (R221-R226): OK, RECOVERED exactly when some
transaction recovered (10_state.md R32), DCOUNT = n, every word but the first stored. The cycles of a read that recovered, in
Wire and in CYCCNT, are those of 43_transaction.md R203; R231 counts one more at WR_TRN = 0, and following R203 there is the
model's choice (assumption log 22). -/
def Obligations.DumpCompletesThroughRecoveries : Prop :=
  ∀ (s : State) (rep : Nat → Reply), Quiet s → s.dlen.toNat < s.params.dumpCapacity →
    DumpDrawn s rep (3 + ((s.dlen.toNat + 3) / 4 + 1)) →
    (∀ i, i < 3 + ((s.dlen.toNat + 3) / 4 + 1) → (rep i).succeeds = true) →
    ∃ b : Memory,
      exec .dump s =
        .next { ran s .out false (dumpCycles s.params s.wdata rep (3 + ((s.dlen.toNat + 3) / 4 + 1)))
            (dumpDraws s.wdata rep (3 + ((s.dlen.toNat + 3) / 4 + 1))) with
          result := .ok, dcount := s.dlen, buf := b
          recovered := (List.range (3 + ((s.dlen.toNat + 3) / 4 + 1))).any (fun i => (rep i).recovers)
          acks := packAcks ((rep (3 + (s.dlen.toNat + 3) / 4)).record .rd) } ∧
      WordsStored s.buf b ((s.dlen.toNat + 3) / 4) (fun j => (rep (4 + j)).word)

/-- The fixed wire constants (30_encoding.md R101), bit for bit, and the bits they put on the wire, first bit first
(95_test_vectors.md 1.1); ACK_OK is R98's, the idle bit R100's. That ACK_OK and IDLE_BIT, which 00_scope.md R6 lists as
parameters, are constants is the model's reading (assumption log 12). -/
def Obligations.FixedWireConstants : Prop :=
  (alert = 0x19BC0EA2E3DDAFE986852D956209F392#128 ∧ activation = 0x1A#8 ∧ modeSwitchSeq = 0xE79E#16 ∧ reqId = 0xA5#8 ∧
    reqAbort = 0x81#8 ∧ abortPayload = 0x0000001E#32 ∧ reqSelect = 0xB1#8 ∧ selectPayload = 0x00000000#32 ∧
    reqAddress = 0x8B#8 ∧ reqData = 0x9F#8 ∧ Config.ackOk = 0b001#3) ∧
  (∀ i, i < 128 → alert.getLsbD i = (0x49CF9046A9B4A16197F5BBC745703D98#128).getMsbD i) ∧
  sent activation 8 = [false, true, false, true, true, false, false, false].map wireW ∧
  sent modeSwitchSeq 16 =
    [false, true, true, true, true, false, false, true, true, true, true, false, false, true, true, true].map wireW ∧
  sent reqId 8 = [true, false, true, false, false, true, false, true].map wireW ∧
  sent reqAbort 8 = [true, false, false, false, false, false, false, true].map wireW ∧
  sent reqSelect 8 = [true, false, false, false, true, true, false, true].map wireW ∧
  sent reqAddress 8 = [true, true, false, true, false, false, false, true].map wireW ∧
  sent reqData 8 = [true, true, true, true, true, false, false, true].map wireW ∧
  sent abortPayload 32 = [false, true, true, true, true].map wireW ++ List.replicate 27 (wireW false) ∧
  sent selectPayload 32 = List.replicate 32 (wireW false) ∧
  parity abortPayload = false ∧ parity selectPayload = false ∧
  idleTrace = [wireW false, wireW false, wireW false, wireW false] ∧
  got Config.ackOk 3 = [wireR true, wireR false, wireR false] ∧
  ∀ p : Params, lineResetTrace p =
    List.replicate p.lineResetHigh (wireW true) ++ List.replicate p.lineResetIdle (wireW false)

/-- The window stands at BASE in the host's address map (20_memory.md R60): offset off is at BASE + off, an access there is
the access to that offset, an aligned BASE keeps an offset's alignment, and no step moves BASE. An address below BASE is no
access to the block: the model's reading (assumption log 23). -/
def Obligations.WindowStandsAtBase : Prop :=
  ∀ s : State,
    (∀ off, hostAddress s.params off = s.params.base + off ∧
      windowOffset s.params (s.params.base + off) = some off ∧
      (s.params.Legal → (s.params.base + off) % 0x1000 = off % 0x1000)) ∧
    (∀ addr, addr < s.params.base → windowOffset s.params addr = none) ∧
    (∀ (off n : Nat) (rest : List Event), s.inReset = false →
      s.sched = busRead s.params (s.params.base + off) n ++ rest →
      step s = .next (advance { s with sched := rest, resp := hostRead s off n })) ∧
    (∀ (v : Word) (rest : List Event), s.inReset = false →
      s.sched = busWrite s.params (s.params.base + 0x008) 4 v ++ rest →
      step s = .next (advance { s with sched := rest, resp := .written, wdata := v })) ∧
    ∀ t, step s = .next t → t.params = s.params
end

