-- ==== Sys2Proof/Laws/State.lean ====
section
/-! SUPPORT. One lemma per field per update of State, true by rfl, so that no proof unfolds an update. -/

namespace Sys2Proof.Laws

open Sys2Proof.Machine

/-! ## clockCycle -/

@[simp] theorem clockCycle_swclk (m : Option Bool) (s : State) : (clockCycle m s).swclk = true := rfl
@[simp] theorem clockCycle_dir (m : Option Bool) (s : State) : (clockCycle m s).dir = s.dir := rfl
@[simp] theorem clockCycle_swdioO (m : Option Bool) (s : State) : (clockCycle m s).swdioO = s.swdioO := rfl
@[simp] theorem clockCycle_errCmd (m : Option Bool) (s : State) : (clockCycle m s).errCmd = s.errCmd := rfl
@[simp] theorem clockCycle_errBusy (m : Option Bool) (s : State) : (clockCycle m s).errBusy = s.errBusy := rfl
@[simp] theorem clockCycle_recovered (m : Option Bool) (s : State) : (clockCycle m s).recovered = s.recovered := rfl
@[simp] theorem clockCycle_result (m : Option Bool) (s : State) : (clockCycle m s).result = s.result := rfl
@[simp] theorem clockCycle_sstate (m : Option Bool) (s : State) : (clockCycle m s).sstate = s.sstate := rfl
@[simp] theorem clockCycle_wdata (m : Option Bool) (s : State) : (clockCycle m s).wdata = s.wdata := rfl
@[simp] theorem clockCycle_rdata (m : Option Bool) (s : State) : (clockCycle m s).rdata = s.rdata := rfl
@[simp] theorem clockCycle_dlen (m : Option Bool) (s : State) : (clockCycle m s).dlen = s.dlen := rfl
@[simp] theorem clockCycle_idcode (m : Option Bool) (s : State) : (clockCycle m s).idcode = s.idcode := rfl
@[simp] theorem clockCycle_acks (m : Option Bool) (s : State) : (clockCycle m s).acks = s.acks := rfl
@[simp] theorem clockCycle_dcount (m : Option Bool) (s : State) : (clockCycle m s).dcount = s.dcount := rfl
@[simp] theorem clockCycle_cyccnt (m : Option Bool) (s : State) : (clockCycle m s).cyccnt = s.cyccnt + 1#32 := rfl
@[simp] theorem clockCycle_params (m : Option Bool) (s : State) : (clockCycle m s).params = s.params := rfl
@[simp] theorem clockCycle_buf (m : Option Bool) (s : State) : (clockCycle m s).buf = s.buf := rfl
@[simp] theorem clockCycle_engine (m : Option Bool) (s : State) : (clockCycle m s).engine = s.engine := rfl
@[simp] theorem clockCycle_wire (m : Option Bool) (s : State) : (clockCycle m s).wire = s.wire ++ [{ drv := driven s, smp := m }] := rfl
@[simp] theorem clockCycle_draws (m : Option Bool) (s : State) : (clockCycle m s).draws = s.draws := rfl
@[simp] theorem clockCycle_drawIdx (m : Option Bool) (s : State) : (clockCycle m s).drawIdx = s.drawIdx := rfl
@[simp] theorem clockCycle_bufEpoch (m : Option Bool) (s : State) : (clockCycle m s).bufEpoch = s.bufEpoch := rfl
@[simp] theorem clockCycle_sched (m : Option Bool) (s : State) : (clockCycle m s).sched = s.sched := rfl
@[simp] theorem clockCycle_inReset (m : Option Bool) (s : State) : (clockCycle m s).inReset = s.inReset := rfl
@[simp] theorem clockCycle_resp (m : Option Bool) (s : State) : (clockCycle m s).resp = s.resp := rfl

/-! ## skipDraws -/

@[simp] theorem skipDraws_swclk (n : Nat) (s : State) : (skipDraws n s).swclk = s.swclk := rfl
@[simp] theorem skipDraws_dir (n : Nat) (s : State) : (skipDraws n s).dir = s.dir := rfl
@[simp] theorem skipDraws_swdioO (n : Nat) (s : State) : (skipDraws n s).swdioO = s.swdioO := rfl
@[simp] theorem skipDraws_errCmd (n : Nat) (s : State) : (skipDraws n s).errCmd = s.errCmd := rfl
@[simp] theorem skipDraws_errBusy (n : Nat) (s : State) : (skipDraws n s).errBusy = s.errBusy := rfl
@[simp] theorem skipDraws_recovered (n : Nat) (s : State) : (skipDraws n s).recovered = s.recovered := rfl
@[simp] theorem skipDraws_result (n : Nat) (s : State) : (skipDraws n s).result = s.result := rfl
@[simp] theorem skipDraws_sstate (n : Nat) (s : State) : (skipDraws n s).sstate = s.sstate := rfl
@[simp] theorem skipDraws_wdata (n : Nat) (s : State) : (skipDraws n s).wdata = s.wdata := rfl
@[simp] theorem skipDraws_rdata (n : Nat) (s : State) : (skipDraws n s).rdata = s.rdata := rfl
@[simp] theorem skipDraws_dlen (n : Nat) (s : State) : (skipDraws n s).dlen = s.dlen := rfl
@[simp] theorem skipDraws_idcode (n : Nat) (s : State) : (skipDraws n s).idcode = s.idcode := rfl
@[simp] theorem skipDraws_acks (n : Nat) (s : State) : (skipDraws n s).acks = s.acks := rfl
@[simp] theorem skipDraws_dcount (n : Nat) (s : State) : (skipDraws n s).dcount = s.dcount := rfl
@[simp] theorem skipDraws_cyccnt (n : Nat) (s : State) : (skipDraws n s).cyccnt = s.cyccnt := rfl
@[simp] theorem skipDraws_params (n : Nat) (s : State) : (skipDraws n s).params = s.params := rfl
@[simp] theorem skipDraws_buf (n : Nat) (s : State) : (skipDraws n s).buf = s.buf := rfl
@[simp] theorem skipDraws_engine (n : Nat) (s : State) : (skipDraws n s).engine = s.engine := rfl
@[simp] theorem skipDraws_wire (n : Nat) (s : State) : (skipDraws n s).wire = s.wire := rfl
@[simp] theorem skipDraws_draws (n : Nat) (s : State) : (skipDraws n s).draws = s.draws.drop n := rfl
@[simp] theorem skipDraws_drawIdx (n : Nat) (s : State) : (skipDraws n s).drawIdx = s.drawIdx + (n - s.draws.length) := rfl
@[simp] theorem skipDraws_bufEpoch (n : Nat) (s : State) : (skipDraws n s).bufEpoch = s.bufEpoch := rfl
@[simp] theorem skipDraws_sched (n : Nat) (s : State) : (skipDraws n s).sched = s.sched := rfl
@[simp] theorem skipDraws_inReset (n : Nat) (s : State) : (skipDraws n s).inReset = s.inReset := rfl
@[simp] theorem skipDraws_resp (n : Nat) (s : State) : (skipDraws n s).resp = s.resp := rfl

/-! ## pulseClock -/

@[simp] theorem pulseClock_swclk (s : State) : (pulseClock s).swclk = true := rfl
@[simp] theorem pulseClock_dir (s : State) : (pulseClock s).dir = s.dir := rfl
@[simp] theorem pulseClock_swdioO (s : State) : (pulseClock s).swdioO = s.swdioO := rfl
@[simp] theorem pulseClock_errCmd (s : State) : (pulseClock s).errCmd = s.errCmd := rfl
@[simp] theorem pulseClock_errBusy (s : State) : (pulseClock s).errBusy = s.errBusy := rfl
@[simp] theorem pulseClock_recovered (s : State) : (pulseClock s).recovered = s.recovered := rfl
@[simp] theorem pulseClock_result (s : State) : (pulseClock s).result = s.result := rfl
@[simp] theorem pulseClock_sstate (s : State) : (pulseClock s).sstate = s.sstate := rfl
@[simp] theorem pulseClock_wdata (s : State) : (pulseClock s).wdata = s.wdata := rfl
@[simp] theorem pulseClock_rdata (s : State) : (pulseClock s).rdata = s.rdata := rfl
@[simp] theorem pulseClock_dlen (s : State) : (pulseClock s).dlen = s.dlen := rfl
@[simp] theorem pulseClock_idcode (s : State) : (pulseClock s).idcode = s.idcode := rfl
@[simp] theorem pulseClock_acks (s : State) : (pulseClock s).acks = s.acks := rfl
@[simp] theorem pulseClock_dcount (s : State) : (pulseClock s).dcount = s.dcount := rfl
@[simp] theorem pulseClock_cyccnt (s : State) : (pulseClock s).cyccnt = s.cyccnt + 1#32 := rfl
@[simp] theorem pulseClock_params (s : State) : (pulseClock s).params = s.params := rfl
@[simp] theorem pulseClock_buf (s : State) : (pulseClock s).buf = s.buf := rfl
@[simp] theorem pulseClock_engine (s : State) : (pulseClock s).engine = s.engine := rfl
@[simp] theorem pulseClock_wire (s : State) : (pulseClock s).wire = s.wire ++ [{ drv := driven s, smp := none }] := rfl
@[simp] theorem pulseClock_draws (s : State) : (pulseClock s).draws = s.draws := rfl
@[simp] theorem pulseClock_drawIdx (s : State) : (pulseClock s).drawIdx = s.drawIdx := rfl
@[simp] theorem pulseClock_bufEpoch (s : State) : (pulseClock s).bufEpoch = s.bufEpoch := rfl
@[simp] theorem pulseClock_sched (s : State) : (pulseClock s).sched = s.sched := rfl
@[simp] theorem pulseClock_inReset (s : State) : (pulseClock s).inReset = s.inReset := rfl
@[simp] theorem pulseClock_resp (s : State) : (pulseClock s).resp = s.resp := rfl

/-! ## readBit -/

@[simp] theorem readBit_swclk (s : State) : (readBit s).swclk = true := rfl
@[simp] theorem readBit_dir (s : State) : (readBit s).dir = s.dir := rfl
@[simp] theorem readBit_swdioO (s : State) : (readBit s).swdioO = s.swdioO := rfl
@[simp] theorem readBit_errCmd (s : State) : (readBit s).errCmd = s.errCmd := rfl
@[simp] theorem readBit_errBusy (s : State) : (readBit s).errBusy = s.errBusy := rfl
@[simp] theorem readBit_recovered (s : State) : (readBit s).recovered = s.recovered := rfl
@[simp] theorem readBit_result (s : State) : (readBit s).result = s.result := rfl
@[simp] theorem readBit_sstate (s : State) : (readBit s).sstate = s.sstate := rfl
@[simp] theorem readBit_wdata (s : State) : (readBit s).wdata = s.wdata := rfl
@[simp] theorem readBit_rdata (s : State) : (readBit s).rdata = s.rdata := rfl
@[simp] theorem readBit_dlen (s : State) : (readBit s).dlen = s.dlen := rfl
@[simp] theorem readBit_idcode (s : State) : (readBit s).idcode = s.idcode := rfl
@[simp] theorem readBit_acks (s : State) : (readBit s).acks = s.acks := rfl
@[simp] theorem readBit_dcount (s : State) : (readBit s).dcount = s.dcount := rfl
@[simp] theorem readBit_cyccnt (s : State) : (readBit s).cyccnt = s.cyccnt + 1#32 := rfl
@[simp] theorem readBit_params (s : State) : (readBit s).params = s.params := rfl
@[simp] theorem readBit_buf (s : State) : (readBit s).buf = s.buf := rfl
@[simp] theorem readBit_engine (s : State) : (readBit s).engine = s.engine := rfl
@[simp] theorem readBit_wire (s : State) : (readBit s).wire = s.wire ++ [{ drv := driven s, smp := some (sample s) }] := rfl
@[simp] theorem readBit_draws (s : State) : (readBit s).draws = s.draws.drop 1 := rfl
@[simp] theorem readBit_drawIdx (s : State) : (readBit s).drawIdx = s.drawIdx + (1 - s.draws.length) := rfl
@[simp] theorem readBit_bufEpoch (s : State) : (readBit s).bufEpoch = s.bufEpoch := rfl
@[simp] theorem readBit_sched (s : State) : (readBit s).sched = s.sched := rfl
@[simp] theorem readBit_inReset (s : State) : (readBit s).inReset = s.inReset := rfl
@[simp] theorem readBit_resp (s : State) : (readBit s).resp = s.resp := rfl

/-! ## writeBit -/

@[simp] theorem writeBit_swclk (v : Bool) (s : State) : (writeBit v s).swclk = true := rfl
@[simp] theorem writeBit_dir (v : Bool) (s : State) : (writeBit v s).dir = s.dir := rfl
@[simp] theorem writeBit_swdioO (v : Bool) (s : State) : (writeBit v s).swdioO = v := rfl
@[simp] theorem writeBit_errCmd (v : Bool) (s : State) : (writeBit v s).errCmd = s.errCmd := rfl
@[simp] theorem writeBit_errBusy (v : Bool) (s : State) : (writeBit v s).errBusy = s.errBusy := rfl
@[simp] theorem writeBit_recovered (v : Bool) (s : State) : (writeBit v s).recovered = s.recovered := rfl
@[simp] theorem writeBit_result (v : Bool) (s : State) : (writeBit v s).result = s.result := rfl
@[simp] theorem writeBit_sstate (v : Bool) (s : State) : (writeBit v s).sstate = s.sstate := rfl
@[simp] theorem writeBit_wdata (v : Bool) (s : State) : (writeBit v s).wdata = s.wdata := rfl
@[simp] theorem writeBit_rdata (v : Bool) (s : State) : (writeBit v s).rdata = s.rdata := rfl
@[simp] theorem writeBit_dlen (v : Bool) (s : State) : (writeBit v s).dlen = s.dlen := rfl
@[simp] theorem writeBit_idcode (v : Bool) (s : State) : (writeBit v s).idcode = s.idcode := rfl
@[simp] theorem writeBit_acks (v : Bool) (s : State) : (writeBit v s).acks = s.acks := rfl
@[simp] theorem writeBit_dcount (v : Bool) (s : State) : (writeBit v s).dcount = s.dcount := rfl
@[simp] theorem writeBit_cyccnt (v : Bool) (s : State) : (writeBit v s).cyccnt = s.cyccnt + 1#32 := rfl
@[simp] theorem writeBit_params (v : Bool) (s : State) : (writeBit v s).params = s.params := rfl
@[simp] theorem writeBit_buf (v : Bool) (s : State) : (writeBit v s).buf = s.buf := rfl
@[simp] theorem writeBit_engine (v : Bool) (s : State) : (writeBit v s).engine = s.engine := rfl
@[simp] theorem writeBit_wire (v : Bool) (s : State) : (writeBit v s).wire = s.wire ++ [{ drv := driven { s with swdioO := v }, smp := none }] := rfl
@[simp] theorem writeBit_draws (v : Bool) (s : State) : (writeBit v s).draws = s.draws := rfl
@[simp] theorem writeBit_drawIdx (v : Bool) (s : State) : (writeBit v s).drawIdx = s.drawIdx := rfl
@[simp] theorem writeBit_bufEpoch (v : Bool) (s : State) : (writeBit v s).bufEpoch = s.bufEpoch := rfl
@[simp] theorem writeBit_sched (v : Bool) (s : State) : (writeBit v s).sched = s.sched := rfl
@[simp] theorem writeBit_inReset (v : Bool) (s : State) : (writeBit v s).inReset = s.inReset := rfl
@[simp] theorem writeBit_resp (v : Bool) (s : State) : (writeBit v s).resp = s.resp := rfl

/-! ## setDirection -/

@[simp] theorem setDirection_swclk (d : Dir) (s : State) : (setDirection d s).swclk = s.swclk := rfl
@[simp] theorem setDirection_dir (d : Dir) (s : State) : (setDirection d s).dir = d := rfl
@[simp] theorem setDirection_swdioO (d : Dir) (s : State) : (setDirection d s).swdioO = s.swdioO := rfl
@[simp] theorem setDirection_errCmd (d : Dir) (s : State) : (setDirection d s).errCmd = s.errCmd := rfl
@[simp] theorem setDirection_errBusy (d : Dir) (s : State) : (setDirection d s).errBusy = s.errBusy := rfl
@[simp] theorem setDirection_recovered (d : Dir) (s : State) : (setDirection d s).recovered = s.recovered := rfl
@[simp] theorem setDirection_result (d : Dir) (s : State) : (setDirection d s).result = s.result := rfl
@[simp] theorem setDirection_sstate (d : Dir) (s : State) : (setDirection d s).sstate = s.sstate := rfl
@[simp] theorem setDirection_wdata (d : Dir) (s : State) : (setDirection d s).wdata = s.wdata := rfl
@[simp] theorem setDirection_rdata (d : Dir) (s : State) : (setDirection d s).rdata = s.rdata := rfl
@[simp] theorem setDirection_dlen (d : Dir) (s : State) : (setDirection d s).dlen = s.dlen := rfl
@[simp] theorem setDirection_idcode (d : Dir) (s : State) : (setDirection d s).idcode = s.idcode := rfl
@[simp] theorem setDirection_acks (d : Dir) (s : State) : (setDirection d s).acks = s.acks := rfl
@[simp] theorem setDirection_dcount (d : Dir) (s : State) : (setDirection d s).dcount = s.dcount := rfl
@[simp] theorem setDirection_cyccnt (d : Dir) (s : State) : (setDirection d s).cyccnt = s.cyccnt := rfl
@[simp] theorem setDirection_params (d : Dir) (s : State) : (setDirection d s).params = s.params := rfl
@[simp] theorem setDirection_buf (d : Dir) (s : State) : (setDirection d s).buf = s.buf := rfl
@[simp] theorem setDirection_engine (d : Dir) (s : State) : (setDirection d s).engine = s.engine := rfl
@[simp] theorem setDirection_wire (d : Dir) (s : State) : (setDirection d s).wire = s.wire := rfl
@[simp] theorem setDirection_draws (d : Dir) (s : State) : (setDirection d s).draws = s.draws := rfl
@[simp] theorem setDirection_drawIdx (d : Dir) (s : State) : (setDirection d s).drawIdx = s.drawIdx := rfl
@[simp] theorem setDirection_bufEpoch (d : Dir) (s : State) : (setDirection d s).bufEpoch = s.bufEpoch := rfl
@[simp] theorem setDirection_sched (d : Dir) (s : State) : (setDirection d s).sched = s.sched := rfl
@[simp] theorem setDirection_inReset (d : Dir) (s : State) : (setDirection d s).inReset = s.inReset := rfl
@[simp] theorem setDirection_resp (d : Dir) (s : State) : (setDirection d s).resp = s.resp := rfl

/-! ## storeWordBE -/

@[simp] theorem storeWordBE_swclk (k : Nat) (w : Word) (s : State) : (storeWordBE k w s).swclk = s.swclk := rfl
@[simp] theorem storeWordBE_dir (k : Nat) (w : Word) (s : State) : (storeWordBE k w s).dir = s.dir := rfl
@[simp] theorem storeWordBE_swdioO (k : Nat) (w : Word) (s : State) : (storeWordBE k w s).swdioO = s.swdioO := rfl
@[simp] theorem storeWordBE_errCmd (k : Nat) (w : Word) (s : State) : (storeWordBE k w s).errCmd = s.errCmd := rfl
@[simp] theorem storeWordBE_errBusy (k : Nat) (w : Word) (s : State) : (storeWordBE k w s).errBusy = s.errBusy := rfl
@[simp] theorem storeWordBE_recovered (k : Nat) (w : Word) (s : State) : (storeWordBE k w s).recovered = s.recovered := rfl
@[simp] theorem storeWordBE_result (k : Nat) (w : Word) (s : State) : (storeWordBE k w s).result = s.result := rfl
@[simp] theorem storeWordBE_sstate (k : Nat) (w : Word) (s : State) : (storeWordBE k w s).sstate = s.sstate := rfl
@[simp] theorem storeWordBE_wdata (k : Nat) (w : Word) (s : State) : (storeWordBE k w s).wdata = s.wdata := rfl
@[simp] theorem storeWordBE_rdata (k : Nat) (w : Word) (s : State) : (storeWordBE k w s).rdata = s.rdata := rfl
@[simp] theorem storeWordBE_dlen (k : Nat) (w : Word) (s : State) : (storeWordBE k w s).dlen = s.dlen := rfl
@[simp] theorem storeWordBE_idcode (k : Nat) (w : Word) (s : State) : (storeWordBE k w s).idcode = s.idcode := rfl
@[simp] theorem storeWordBE_acks (k : Nat) (w : Word) (s : State) : (storeWordBE k w s).acks = s.acks := rfl
@[simp] theorem storeWordBE_dcount (k : Nat) (w : Word) (s : State) : (storeWordBE k w s).dcount = s.dcount := rfl
@[simp] theorem storeWordBE_cyccnt (k : Nat) (w : Word) (s : State) : (storeWordBE k w s).cyccnt = s.cyccnt := rfl
@[simp] theorem storeWordBE_params (k : Nat) (w : Word) (s : State) : (storeWordBE k w s).params = s.params := rfl
@[simp] theorem storeWordBE_buf (k : Nat) (w : Word) (s : State) : (storeWordBE k w s).buf = bufAfterStore s.buf k w := rfl
@[simp] theorem storeWordBE_engine (k : Nat) (w : Word) (s : State) : (storeWordBE k w s).engine = s.engine := rfl
@[simp] theorem storeWordBE_wire (k : Nat) (w : Word) (s : State) : (storeWordBE k w s).wire = s.wire := rfl
@[simp] theorem storeWordBE_draws (k : Nat) (w : Word) (s : State) : (storeWordBE k w s).draws = s.draws := rfl
@[simp] theorem storeWordBE_drawIdx (k : Nat) (w : Word) (s : State) : (storeWordBE k w s).drawIdx = s.drawIdx := rfl
@[simp] theorem storeWordBE_bufEpoch (k : Nat) (w : Word) (s : State) : (storeWordBE k w s).bufEpoch = s.bufEpoch := rfl
@[simp] theorem storeWordBE_sched (k : Nat) (w : Word) (s : State) : (storeWordBE k w s).sched = s.sched := rfl
@[simp] theorem storeWordBE_inReset (k : Nat) (w : Word) (s : State) : (storeWordBE k w s).inReset = s.inReset := rfl
@[simp] theorem storeWordBE_resp (k : Nat) (w : Word) (s : State) : (storeWordBE k w s).resp = s.resp := rfl

/-! ## raiseErrCmd -/

@[simp] theorem raiseErrCmd_swclk (s : State) : (raiseErrCmd s).swclk = s.swclk := rfl
@[simp] theorem raiseErrCmd_dir (s : State) : (raiseErrCmd s).dir = s.dir := rfl
@[simp] theorem raiseErrCmd_swdioO (s : State) : (raiseErrCmd s).swdioO = s.swdioO := rfl
@[simp] theorem raiseErrCmd_errCmd (s : State) : (raiseErrCmd s).errCmd = true := rfl
@[simp] theorem raiseErrCmd_errBusy (s : State) : (raiseErrCmd s).errBusy = s.errBusy := rfl
@[simp] theorem raiseErrCmd_recovered (s : State) : (raiseErrCmd s).recovered = s.recovered := rfl
@[simp] theorem raiseErrCmd_result (s : State) : (raiseErrCmd s).result = s.result := rfl
@[simp] theorem raiseErrCmd_sstate (s : State) : (raiseErrCmd s).sstate = s.sstate := rfl
@[simp] theorem raiseErrCmd_wdata (s : State) : (raiseErrCmd s).wdata = s.wdata := rfl
@[simp] theorem raiseErrCmd_rdata (s : State) : (raiseErrCmd s).rdata = s.rdata := rfl
@[simp] theorem raiseErrCmd_dlen (s : State) : (raiseErrCmd s).dlen = s.dlen := rfl
@[simp] theorem raiseErrCmd_idcode (s : State) : (raiseErrCmd s).idcode = s.idcode := rfl
@[simp] theorem raiseErrCmd_acks (s : State) : (raiseErrCmd s).acks = s.acks := rfl
@[simp] theorem raiseErrCmd_dcount (s : State) : (raiseErrCmd s).dcount = s.dcount := rfl
@[simp] theorem raiseErrCmd_cyccnt (s : State) : (raiseErrCmd s).cyccnt = s.cyccnt := rfl
@[simp] theorem raiseErrCmd_params (s : State) : (raiseErrCmd s).params = s.params := rfl
@[simp] theorem raiseErrCmd_buf (s : State) : (raiseErrCmd s).buf = s.buf := rfl
@[simp] theorem raiseErrCmd_engine (s : State) : (raiseErrCmd s).engine = s.engine := rfl
@[simp] theorem raiseErrCmd_wire (s : State) : (raiseErrCmd s).wire = s.wire := rfl
@[simp] theorem raiseErrCmd_draws (s : State) : (raiseErrCmd s).draws = s.draws := rfl
@[simp] theorem raiseErrCmd_drawIdx (s : State) : (raiseErrCmd s).drawIdx = s.drawIdx := rfl
@[simp] theorem raiseErrCmd_bufEpoch (s : State) : (raiseErrCmd s).bufEpoch = s.bufEpoch := rfl
@[simp] theorem raiseErrCmd_sched (s : State) : (raiseErrCmd s).sched = s.sched := rfl
@[simp] theorem raiseErrCmd_inReset (s : State) : (raiseErrCmd s).inReset = s.inReset := rfl
@[simp] theorem raiseErrCmd_resp (s : State) : (raiseErrCmd s).resp = s.resp := rfl

/-! ## raiseErrBusy -/

@[simp] theorem raiseErrBusy_swclk (s : State) : (raiseErrBusy s).swclk = s.swclk := rfl
@[simp] theorem raiseErrBusy_dir (s : State) : (raiseErrBusy s).dir = s.dir := rfl
@[simp] theorem raiseErrBusy_swdioO (s : State) : (raiseErrBusy s).swdioO = s.swdioO := rfl
@[simp] theorem raiseErrBusy_errCmd (s : State) : (raiseErrBusy s).errCmd = s.errCmd := rfl
@[simp] theorem raiseErrBusy_errBusy (s : State) : (raiseErrBusy s).errBusy = true := rfl
@[simp] theorem raiseErrBusy_recovered (s : State) : (raiseErrBusy s).recovered = s.recovered := rfl
@[simp] theorem raiseErrBusy_result (s : State) : (raiseErrBusy s).result = s.result := rfl
@[simp] theorem raiseErrBusy_sstate (s : State) : (raiseErrBusy s).sstate = s.sstate := rfl
@[simp] theorem raiseErrBusy_wdata (s : State) : (raiseErrBusy s).wdata = s.wdata := rfl
@[simp] theorem raiseErrBusy_rdata (s : State) : (raiseErrBusy s).rdata = s.rdata := rfl
@[simp] theorem raiseErrBusy_dlen (s : State) : (raiseErrBusy s).dlen = s.dlen := rfl
@[simp] theorem raiseErrBusy_idcode (s : State) : (raiseErrBusy s).idcode = s.idcode := rfl
@[simp] theorem raiseErrBusy_acks (s : State) : (raiseErrBusy s).acks = s.acks := rfl
@[simp] theorem raiseErrBusy_dcount (s : State) : (raiseErrBusy s).dcount = s.dcount := rfl
@[simp] theorem raiseErrBusy_cyccnt (s : State) : (raiseErrBusy s).cyccnt = s.cyccnt := rfl
@[simp] theorem raiseErrBusy_params (s : State) : (raiseErrBusy s).params = s.params := rfl
@[simp] theorem raiseErrBusy_buf (s : State) : (raiseErrBusy s).buf = s.buf := rfl
@[simp] theorem raiseErrBusy_engine (s : State) : (raiseErrBusy s).engine = s.engine := rfl
@[simp] theorem raiseErrBusy_wire (s : State) : (raiseErrBusy s).wire = s.wire := rfl
@[simp] theorem raiseErrBusy_draws (s : State) : (raiseErrBusy s).draws = s.draws := rfl
@[simp] theorem raiseErrBusy_drawIdx (s : State) : (raiseErrBusy s).drawIdx = s.drawIdx := rfl
@[simp] theorem raiseErrBusy_bufEpoch (s : State) : (raiseErrBusy s).bufEpoch = s.bufEpoch := rfl
@[simp] theorem raiseErrBusy_sched (s : State) : (raiseErrBusy s).sched = s.sched := rfl
@[simp] theorem raiseErrBusy_inReset (s : State) : (raiseErrBusy s).inReset = s.inReset := rfl
@[simp] theorem raiseErrBusy_resp (s : State) : (raiseErrBusy s).resp = s.resp := rfl

/-! ## releaseReset -/

@[simp] theorem releaseReset_swclk (s : State) : (releaseReset s).swclk = s.swclk := rfl
@[simp] theorem releaseReset_dir (s : State) : (releaseReset s).dir = s.dir := rfl
@[simp] theorem releaseReset_swdioO (s : State) : (releaseReset s).swdioO = s.swdioO := rfl
@[simp] theorem releaseReset_errCmd (s : State) : (releaseReset s).errCmd = s.errCmd := rfl
@[simp] theorem releaseReset_errBusy (s : State) : (releaseReset s).errBusy = s.errBusy := rfl
@[simp] theorem releaseReset_recovered (s : State) : (releaseReset s).recovered = s.recovered := rfl
@[simp] theorem releaseReset_result (s : State) : (releaseReset s).result = s.result := rfl
@[simp] theorem releaseReset_sstate (s : State) : (releaseReset s).sstate = s.sstate := rfl
@[simp] theorem releaseReset_wdata (s : State) : (releaseReset s).wdata = s.wdata := rfl
@[simp] theorem releaseReset_rdata (s : State) : (releaseReset s).rdata = s.rdata := rfl
@[simp] theorem releaseReset_dlen (s : State) : (releaseReset s).dlen = s.dlen := rfl
@[simp] theorem releaseReset_idcode (s : State) : (releaseReset s).idcode = s.idcode := rfl
@[simp] theorem releaseReset_acks (s : State) : (releaseReset s).acks = s.acks := rfl
@[simp] theorem releaseReset_dcount (s : State) : (releaseReset s).dcount = s.dcount := rfl
@[simp] theorem releaseReset_cyccnt (s : State) : (releaseReset s).cyccnt = s.cyccnt := rfl
@[simp] theorem releaseReset_params (s : State) : (releaseReset s).params = s.params := rfl
@[simp] theorem releaseReset_buf (s : State) : (releaseReset s).buf = s.buf := rfl
@[simp] theorem releaseReset_engine (s : State) : (releaseReset s).engine = s.engine := rfl
@[simp] theorem releaseReset_wire (s : State) : (releaseReset s).wire = s.wire := rfl
@[simp] theorem releaseReset_draws (s : State) : (releaseReset s).draws = s.draws := rfl
@[simp] theorem releaseReset_drawIdx (s : State) : (releaseReset s).drawIdx = s.drawIdx := rfl
@[simp] theorem releaseReset_bufEpoch (s : State) : (releaseReset s).bufEpoch = s.bufEpoch := rfl
@[simp] theorem releaseReset_sched (s : State) : (releaseReset s).sched = s.sched := rfl
@[simp] theorem releaseReset_inReset (s : State) : (releaseReset s).inReset = false := rfl
@[simp] theorem releaseReset_resp (s : State) : (releaseReset s).resp = s.resp := rfl

/-! ## resume -/

@[simp] theorem resume_swclk (r : Running) (s : State) : (resume r s).swclk = s.swclk := rfl
@[simp] theorem resume_dir (r : Running) (s : State) : (resume r s).dir = s.dir := rfl
@[simp] theorem resume_swdioO (r : Running) (s : State) : (resume r s).swdioO = s.swdioO := rfl
@[simp] theorem resume_errCmd (r : Running) (s : State) : (resume r s).errCmd = s.errCmd := rfl
@[simp] theorem resume_errBusy (r : Running) (s : State) : (resume r s).errBusy = s.errBusy := rfl
@[simp] theorem resume_recovered (r : Running) (s : State) : (resume r s).recovered = s.recovered := rfl
@[simp] theorem resume_result (r : Running) (s : State) : (resume r s).result = s.result := rfl
@[simp] theorem resume_sstate (r : Running) (s : State) : (resume r s).sstate = s.sstate := rfl
@[simp] theorem resume_wdata (r : Running) (s : State) : (resume r s).wdata = s.wdata := rfl
@[simp] theorem resume_rdata (r : Running) (s : State) : (resume r s).rdata = s.rdata := rfl
@[simp] theorem resume_dlen (r : Running) (s : State) : (resume r s).dlen = s.dlen := rfl
@[simp] theorem resume_idcode (r : Running) (s : State) : (resume r s).idcode = s.idcode := rfl
@[simp] theorem resume_acks (r : Running) (s : State) : (resume r s).acks = s.acks := rfl
@[simp] theorem resume_dcount (r : Running) (s : State) : (resume r s).dcount = s.dcount := rfl
@[simp] theorem resume_cyccnt (r : Running) (s : State) : (resume r s).cyccnt = s.cyccnt := rfl
@[simp] theorem resume_params (r : Running) (s : State) : (resume r s).params = s.params := rfl
@[simp] theorem resume_buf (r : Running) (s : State) : (resume r s).buf = s.buf := rfl
@[simp] theorem resume_engine (r : Running) (s : State) : (resume r s).engine = .running r := rfl
@[simp] theorem resume_wire (r : Running) (s : State) : (resume r s).wire = s.wire := rfl
@[simp] theorem resume_draws (r : Running) (s : State) : (resume r s).draws = s.draws := rfl
@[simp] theorem resume_drawIdx (r : Running) (s : State) : (resume r s).drawIdx = s.drawIdx := rfl
@[simp] theorem resume_bufEpoch (r : Running) (s : State) : (resume r s).bufEpoch = s.bufEpoch := rfl
@[simp] theorem resume_sched (r : Running) (s : State) : (resume r s).sched = s.sched := rfl
@[simp] theorem resume_inReset (r : Running) (s : State) : (resume r s).inReset = s.inReset := rfl
@[simp] theorem resume_resp (r : Running) (s : State) : (resume r s).resp = s.resp := rfl

/-! ## respond -/

@[simp] theorem respond_swclk (b : BusResp) (s : State) : (respond b s).swclk = s.swclk := rfl
@[simp] theorem respond_dir (b : BusResp) (s : State) : (respond b s).dir = s.dir := rfl
@[simp] theorem respond_swdioO (b : BusResp) (s : State) : (respond b s).swdioO = s.swdioO := rfl
@[simp] theorem respond_errCmd (b : BusResp) (s : State) : (respond b s).errCmd = s.errCmd := rfl
@[simp] theorem respond_errBusy (b : BusResp) (s : State) : (respond b s).errBusy = s.errBusy := rfl
@[simp] theorem respond_recovered (b : BusResp) (s : State) : (respond b s).recovered = s.recovered := rfl
@[simp] theorem respond_result (b : BusResp) (s : State) : (respond b s).result = s.result := rfl
@[simp] theorem respond_sstate (b : BusResp) (s : State) : (respond b s).sstate = s.sstate := rfl
@[simp] theorem respond_wdata (b : BusResp) (s : State) : (respond b s).wdata = s.wdata := rfl
@[simp] theorem respond_rdata (b : BusResp) (s : State) : (respond b s).rdata = s.rdata := rfl
@[simp] theorem respond_dlen (b : BusResp) (s : State) : (respond b s).dlen = s.dlen := rfl
@[simp] theorem respond_idcode (b : BusResp) (s : State) : (respond b s).idcode = s.idcode := rfl
@[simp] theorem respond_acks (b : BusResp) (s : State) : (respond b s).acks = s.acks := rfl
@[simp] theorem respond_dcount (b : BusResp) (s : State) : (respond b s).dcount = s.dcount := rfl
@[simp] theorem respond_cyccnt (b : BusResp) (s : State) : (respond b s).cyccnt = s.cyccnt := rfl
@[simp] theorem respond_params (b : BusResp) (s : State) : (respond b s).params = s.params := rfl
@[simp] theorem respond_buf (b : BusResp) (s : State) : (respond b s).buf = s.buf := rfl
@[simp] theorem respond_engine (b : BusResp) (s : State) : (respond b s).engine = s.engine := rfl
@[simp] theorem respond_wire (b : BusResp) (s : State) : (respond b s).wire = s.wire := rfl
@[simp] theorem respond_draws (b : BusResp) (s : State) : (respond b s).draws = s.draws := rfl
@[simp] theorem respond_drawIdx (b : BusResp) (s : State) : (respond b s).drawIdx = s.drawIdx := rfl
@[simp] theorem respond_bufEpoch (b : BusResp) (s : State) : (respond b s).bufEpoch = s.bufEpoch := rfl
@[simp] theorem respond_sched (b : BusResp) (s : State) : (respond b s).sched = s.sched := rfl
@[simp] theorem respond_inReset (b : BusResp) (s : State) : (respond b s).inReset = s.inReset := rfl
@[simp] theorem respond_resp (b : BusResp) (s : State) : (respond b s).resp = b := rfl

/-! ## ran -/

@[simp] theorem ran_swclk (s : State) (d : Dir) (o : Bool) (tr : List Cycle) (n : Nat) : (ran s d o tr n).swclk = true := rfl
@[simp] theorem ran_dir (s : State) (d : Dir) (o : Bool) (tr : List Cycle) (n : Nat) : (ran s d o tr n).dir = d := rfl
@[simp] theorem ran_swdioO (s : State) (d : Dir) (o : Bool) (tr : List Cycle) (n : Nat) : (ran s d o tr n).swdioO = o := rfl
@[simp] theorem ran_errCmd (s : State) (d : Dir) (o : Bool) (tr : List Cycle) (n : Nat) : (ran s d o tr n).errCmd = s.errCmd := rfl
@[simp] theorem ran_errBusy (s : State) (d : Dir) (o : Bool) (tr : List Cycle) (n : Nat) : (ran s d o tr n).errBusy = s.errBusy := rfl
@[simp] theorem ran_recovered (s : State) (d : Dir) (o : Bool) (tr : List Cycle) (n : Nat) : (ran s d o tr n).recovered = s.recovered := rfl
@[simp] theorem ran_result (s : State) (d : Dir) (o : Bool) (tr : List Cycle) (n : Nat) : (ran s d o tr n).result = s.result := rfl
@[simp] theorem ran_sstate (s : State) (d : Dir) (o : Bool) (tr : List Cycle) (n : Nat) : (ran s d o tr n).sstate = s.sstate := rfl
@[simp] theorem ran_wdata (s : State) (d : Dir) (o : Bool) (tr : List Cycle) (n : Nat) : (ran s d o tr n).wdata = s.wdata := rfl
@[simp] theorem ran_rdata (s : State) (d : Dir) (o : Bool) (tr : List Cycle) (n : Nat) : (ran s d o tr n).rdata = s.rdata := rfl
@[simp] theorem ran_dlen (s : State) (d : Dir) (o : Bool) (tr : List Cycle) (n : Nat) : (ran s d o tr n).dlen = s.dlen := rfl
@[simp] theorem ran_idcode (s : State) (d : Dir) (o : Bool) (tr : List Cycle) (n : Nat) : (ran s d o tr n).idcode = s.idcode := rfl
@[simp] theorem ran_acks (s : State) (d : Dir) (o : Bool) (tr : List Cycle) (n : Nat) : (ran s d o tr n).acks = s.acks := rfl
@[simp] theorem ran_dcount (s : State) (d : Dir) (o : Bool) (tr : List Cycle) (n : Nat) : (ran s d o tr n).dcount = s.dcount := rfl
@[simp] theorem ran_cyccnt (s : State) (d : Dir) (o : Bool) (tr : List Cycle) (n : Nat) : (ran s d o tr n).cyccnt = s.cyccnt + BitVec.ofNat 32 tr.length := rfl
@[simp] theorem ran_params (s : State) (d : Dir) (o : Bool) (tr : List Cycle) (n : Nat) : (ran s d o tr n).params = s.params := rfl
@[simp] theorem ran_buf (s : State) (d : Dir) (o : Bool) (tr : List Cycle) (n : Nat) : (ran s d o tr n).buf = s.buf := rfl
@[simp] theorem ran_engine (s : State) (d : Dir) (o : Bool) (tr : List Cycle) (n : Nat) : (ran s d o tr n).engine = s.engine := rfl
@[simp] theorem ran_wire (s : State) (d : Dir) (o : Bool) (tr : List Cycle) (n : Nat) : (ran s d o tr n).wire = s.wire ++ tr := rfl
@[simp] theorem ran_draws (s : State) (d : Dir) (o : Bool) (tr : List Cycle) (n : Nat) : (ran s d o tr n).draws = s.draws.drop n := rfl
@[simp] theorem ran_drawIdx (s : State) (d : Dir) (o : Bool) (tr : List Cycle) (n : Nat) : (ran s d o tr n).drawIdx = s.drawIdx + (n - s.draws.length) := rfl
@[simp] theorem ran_bufEpoch (s : State) (d : Dir) (o : Bool) (tr : List Cycle) (n : Nat) : (ran s d o tr n).bufEpoch = s.bufEpoch := rfl
@[simp] theorem ran_sched (s : State) (d : Dir) (o : Bool) (tr : List Cycle) (n : Nat) : (ran s d o tr n).sched = s.sched := rfl
@[simp] theorem ran_inReset (s : State) (d : Dir) (o : Bool) (tr : List Cycle) (n : Nat) : (ran s d o tr n).inReset = s.inReset := rfl
@[simp] theorem ran_resp (s : State) (d : Dir) (o : Bool) (tr : List Cycle) (n : Nat) : (ran s d o tr n).resp = s.resp := rfl

end Sys2Proof.Laws
end

