-- ==== Sys2Proof/Laws/Engine.lean ====
section
/-! SUPPORT. The engine run to its end: it ends (spec/70_reset_and_hazards.md R284), and it can be followed line by line. -/

namespace Sys2Proof.Laws

open Sys2Proof.Machine

/-! ## BUSY -/

theorem busy_eq_false_iff (s : State) : s.busy = false ↔ s.engine = .idle := by
  unfold State.busy
  cases s.engine <;> simp

theorem busy_of_running {s : State} {r : Running} (h : s.engine = .running r) : s.busy = true := by
  simp [State.busy, h]

theorem busy_of_idle {s : State} (h : s.engine = .idle) : s.busy = false := (busy_eq_false_iff s).2 h

@[simp] theorem busy_resume (r : Running) (s : State) : (resume r s).busy = true := rfl

/-! ## Lines that lead to no other line -/

theorem lineBound_writeBits {w : Nat} (p : Params) (v : BitVec w) (n : Nat) :
    ((writeBits v n).map (lineBound p)).sum = n := by
  simp [writeBits, Function.comp_def, lineBound]

theorem lineBound_readBits (p : Params) (dst : Nat → ReadDst) (n : Nat) :
    ((readBits dst n).map (lineBound p)).sum = n := by
  simp [readBits, Function.comp_def, lineBound]

@[simp] theorem length_writeBits {w : Nat} (v : BitVec w) (n : Nat) : (writeBits v n).length = n := by
  simp [writeBits]

@[simp] theorem length_readBits (dst : Nat → ReadDst) (n : Nat) : (readBits dst n).length = n := by
  simp [readBits]

theorem lineBound_turnToWrite (p q : Params) :
    ((turnToWrite q).map (lineBound p)).sum = (turnToWrite q).length := by
  simp [turnToWrite, lineBound]

theorem lineBound_dataPhase (p q : Params) (x : XferDir) :
    ((dataPhase q x).map (lineBound p)).sum = (dataPhase q x).length := by
  cases x with
  | rd => simp [dataPhase, readPhase, idleBits4, lineBound_writeBits, lineBound_readBits, lineBound]
  | wr v =>
    simp [dataPhase, writePhase, idleBits4, lineBound_writeBits, lineBound_turnToWrite, lineBound]

theorem lineBound_request (p : Params) (r : Byte) (dst : Nat → ReadDst) :
    ((request r dst).map (lineBound p)).sum = (request r dst).length := by
  simp [request, lineBound_writeBits, lineBound_readBits, lineBound]

theorem lineBound_recoverLead (p q : Params) (r : Byte) :
    ((recoverLead q r).map (lineBound p)).sum = (recoverLead q r).length := by
  simp [recoverLead, writePhase, idleBits4, lineBound_writeBits, lineBound_turnToWrite, lineBound_request, lineBound]
  omega

/-! ## The engine ends -/

@[simp] theorem stepsLeft_resume (r : Running) (s : State) :
    stepsLeft (resume r s) = (r.prog.map (lineBound s.params)).sum + 1 := rfl

theorem stepsLeft_idle {s : State} (h : s.engine = .idle) : stepsLeft s = 0 := by
  simp [stepsLeft, h]

/-- No line changes the instance constants. -/
theorem runLine_params (op : Op) (r : Running) (s : State) : (runLine op r s).params = s.params := by
  cases op with
  | complete e => cases e <;> rfl
  | _ => rfl

theorem engineStep_params (s : State) : (engineStep s).params = s.params := by
  unfold engineStep
  cases s.engine with
  | idle => rfl
  | running r =>
    cases hp : r.prog with
    | nil => simp only [hp]
    | cons op rest => simp only [hp, runLine_params]

theorem engineStep_cons {s : State} {r : Running} {op : Op} {rest : List Op} (h : s.engine = .running r)
    (hp : r.prog = op :: rest) : engineStep s = runLine op { r with prog := rest } s := by
  simp [engineStep, h, hp]

theorem complete_engine (e : Ending) (r : Running) (s : State) : (complete e r s).engine = .idle := by
  cases e <;> rfl

/-- Every line uses up part of the bound. -/
theorem stepsLeft_runLine (op : Op) (r : Running) (s : State) :
    stepsLeft (runLine op r s) < lineBound s.params op + (r.prog.map (lineBound s.params)).sum + 1 := by
  cases op with
  | complete e =>
    rw [runLine, stepsLeft_idle (complete_engine e r s)]
    omega
  | testAck1 q x =>
    simp only [runLine, stepsLeft_resume, List.map_append, List.sum_append]
    unfold afterAck1
    split
    · rw [lineBound_dataPhase]
      simp only [lineBound]
      omega
    · simp only [recover, List.map_append, List.sum_append, lineBound_recoverLead, List.map_cons, List.map_nil,
        List.sum_cons, List.sum_nil, lineBound]
      omega
  | testAck2 x =>
    simp only [runLine, stepsLeft_resume, List.map_append, List.sum_append]
    unfold afterAck2
    split
    · rw [lineBound_dataPhase]
      simp only [lineBound]
      omega
    · rw [lineBound_turnToWrite]
      simp only [lineBound]
      omega
  | testIdAck =>
    simp only [runLine, stepsLeft_resume, List.map_append, List.sum_append]
    unfold afterIdAck
    split
    · rw [lineBound_dataPhase]
      simp only [lineBound]
      omega
    · rw [lineBound_turnToWrite]
      simp only [lineBound]
      omega
  | dumpCheck =>
    simp only [runLine, stepsLeft_resume]
    unfold afterDumpCheck
    split <;> simp [lineBound]
  | dumpRead i k =>
    simp only [runLine, stepsLeft_resume, List.map_append, List.sum_append]
    unfold dumpPass
    split
    · next h =>
      have hstore : ((if i = 0 then ([] : List Op) else [.storeWord (i - 1)]).map (lineBound s.params)).sum ≤ 1 := by
        split <;> simp [lineBound]
      obtain ⟨m, hm⟩ : ∃ m, k - i = m + 1 := ⟨k - i - 1, by omega⟩
      have hm' : k - (i + 1) = m := by omega
      simp only [dumpIteration, transact, List.cons_append, List.append_assoc, List.nil_append, List.map_cons,
        List.map_append, List.map_nil, List.sum_cons, List.sum_append, List.sum_nil, lineBound_request, lineBound, hm,
        hm', Nat.succ_mul]
      omega
    · simp only [List.map_nil, List.sum_nil, lineBound]
      omega
  | _ => simp [runLine, lineBound]

theorem stepsLeft_engineStep {s : State} (h : s.busy = true) : stepsLeft (engineStep s) < stepsLeft s := by
  cases he : s.engine with
  | idle => simp [State.busy, he] at h
  | running r =>
    cases hp : r.prog with
    | nil =>
      have : (engineStep s).engine = .idle := by simp [engineStep, he, hp]
      rw [stepsLeft_idle this]
      simp [stepsLeft, he]
    | cons op rest =>
      rw [engineStep_cons he hp]
      have := stepsLeft_runLine op { r with prog := rest } s
      simpa [stepsLeft, he, hp] using this

theorem engineRun_idle {s : State} (h : s.engine = .idle) (n : Nat) : engineRun n s = s := by
  cases n with
  | zero => rfl
  | succ n => simp [engineRun, busy_of_idle h]

theorem engineRun_busy {s : State} (h : s.busy = true) (n : Nat) :
    engineRun (n + 1) s = engineRun n (engineStep s) := by
  simp [engineRun, h]

theorem engineRun_add (a b : Nat) (s : State) : engineRun (a + b) s = engineRun b (engineRun a s) := by
  induction a generalizing s with
  | zero => simp [engineRun]
  | succ a ih =>
    cases hb : s.busy with
    | false =>
      have hi := (busy_eq_false_iff s).1 hb
      rw [engineRun_idle hi, engineRun_idle hi, engineRun_idle hi]
    | true => rw [Nat.succ_add, engineRun_busy hb, engineRun_busy hb, ih]

/-- The bound is enough. -/
theorem engineRun_ends (n : Nat) : ∀ s : State, stepsLeft s ≤ n → (engineRun n s).engine = .idle := by
  induction n with
  | zero =>
    intro s h
    cases hb : s.busy with
    | false => exact (busy_eq_false_iff s).1 hb
    | true => exact absurd (stepsLeft_engineStep hb) (by omega)
  | succ n ih =>
    intro s h
    cases hb : s.busy with
    | false =>
      have hi := (busy_eq_false_iff s).1 hb
      rw [engineRun_idle hi, hi]
    | true =>
      rw [engineRun_busy hb]
      have := stepsLeft_engineStep hb
      exact ih _ (by omega)

theorem runToEnd_engine (s : State) : (runToEnd s).engine = .idle := engineRun_ends _ s (Nat.le_refl _)

/-- With at least the bound to go, more steps change nothing. -/
theorem engineRun_enough {n : Nat} {s : State} (h : stepsLeft s ≤ n) : engineRun n s = runToEnd s := by
  obtain ⟨d, rfl⟩ := Nat.exists_eq_add_of_le h
  rw [engineRun_add, engineRun_idle (engineRun_ends _ s (Nat.le_refl _)), runToEnd]

theorem runToEnd_idle {s : State} (h : s.engine = .idle) : runToEnd s = s := engineRun_idle h _

/-- The run to the end, one step at a time. -/
theorem runToEnd_engineStep (s : State) : runToEnd (engineStep s) = runToEnd s := by
  cases hb : s.busy with
  | false =>
    have hi := (busy_eq_false_iff s).1 hb
    simp [engineStep, hi]
  | true =>
    have hlt := stepsLeft_engineStep hb
    have h := engineRun_enough (n := stepsLeft (engineStep s) + 1) (s := s)
    obtain ⟨m, hm⟩ : ∃ m, stepsLeft s = m + 1 := ⟨stepsLeft s - 1, by omega⟩
    rw [runToEnd.eq_1 s, hm, engineRun_busy hb]
    exact (engineRun_enough (by omega)).symm

theorem runToEnd_engineRun (n : Nat) (s : State) : runToEnd (engineRun n s) = runToEnd s := by
  induction n generalizing s with
  | zero => rfl
  | succ n ih =>
    cases hb : s.busy with
    | false => rw [engineRun_idle ((busy_eq_false_iff s).1 hb)]
    | true => rw [engineRun_busy hb, ih, runToEnd_engineStep]

/-! ## Following a command line by line -/

/-- The next line of a running command. -/
theorem runToEnd_line (l : Latch) (h : Shadow) (op : Op) (rest : List Op) (s : State) :
    runToEnd (resume ⟨l, h, op :: rest⟩ s) = runToEnd (runLine op ⟨l, h, rest⟩ (resume ⟨l, h, op :: rest⟩ s)) := by
  rw [← runToEnd_engineStep]
  rfl

@[simp] theorem resume_resume (r r' : Running) (s : State) : resume r (resume r' s) = resume r s := rfl

theorem runToEnd_complete (l : Latch) (h : Shadow) (e : Ending) (rest : List Op) (s : State) :
    runToEnd (resume ⟨l, h, .complete e :: rest⟩ s) = complete e ⟨l, h, rest⟩ s := by
  rw [runToEnd_line]
  cases e <;> exact runToEnd_idle rfl

theorem runToEnd_setDirection (l : Latch) (h : Shadow) (d : Dir) (rest : List Op) (s : State) :
    runToEnd (resume ⟨l, h, .setDirection d :: rest⟩ s) = runToEnd (resume ⟨l, h, rest⟩ (setDirection d s)) := by
  rw [runToEnd_line]
  rfl

theorem runToEnd_pulseClock (l : Latch) (h : Shadow) (rest : List Op) (s : State) :
    runToEnd (resume ⟨l, h, .pulseClock :: rest⟩ s) = runToEnd (resume ⟨l, h, rest⟩ (pulseClock s)) := by
  rw [runToEnd_line]
  rfl

theorem runToEnd_writeBit (l : Latch) (h : Shadow) (v : Bool) (rest : List Op) (s : State) :
    runToEnd (resume ⟨l, h, .writeBit v :: rest⟩ s) = runToEnd (resume ⟨l, h, rest⟩ (writeBit v s)) := by
  rw [runToEnd_line]
  rfl

theorem runToEnd_readBit (l : Latch) (h : Shadow) (dst : ReadDst) (rest : List Op) (s : State) :
    runToEnd (resume ⟨l, h, .readBit dst :: rest⟩ s) =
      runToEnd (resume ⟨l, h.take (sample s) dst, rest⟩ (readBit s)) := by
  rw [runToEnd_line]
  rfl

theorem runToEnd_enterState (l : Latch) (h : Shadow) (x : SState) (rest : List Op) (s : State) :
    runToEnd (resume ⟨l, h, .enterState x :: rest⟩ s) = runToEnd (resume ⟨l, h, rest⟩ { s with sstate := x }) := by
  rw [runToEnd_line]
  rfl

theorem runToEnd_newTransaction (l : Latch) (h : Shadow) (rest : List Op) (s : State) :
    runToEnd (resume ⟨l, h, .newTransaction :: rest⟩ s) =
      runToEnd (resume ⟨l, { h with trans := Trans.start }, rest⟩ s) := by
  rw [runToEnd_line]
  rfl

theorem runToEnd_testAck1 (l : Latch) (h : Shadow) (q : Byte) (x : XferDir) (rest : List Op) (s : State) :
    runToEnd (resume ⟨l, h, .testAck1 q x :: rest⟩ s) =
      runToEnd (resume ⟨l, { h with trans := { h.trans with recovered := decide (h.trans.ack1 ≠ Config.ackOk) } },
        afterAck1 s.params q x { h.trans with recovered := decide (h.trans.ack1 ≠ Config.ackOk) } ++ rest⟩ s) := by
  rw [runToEnd_line]
  rfl

theorem runToEnd_testAck2 (l : Latch) (h : Shadow) (x : XferDir) (rest : List Op) (s : State) :
    runToEnd (resume ⟨l, h, .testAck2 x :: rest⟩ s) =
      runToEnd (resume ⟨l, h, afterAck2 s.params x h.trans ++ rest⟩ s) := by
  rw [runToEnd_line]
  rfl

theorem runToEnd_testIdAck (l : Latch) (h : Shadow) (rest : List Op) (s : State) :
    runToEnd (resume ⟨l, h, .testIdAck :: rest⟩ s) =
      runToEnd (resume ⟨l, h, afterIdAck s.params h.trans ++ rest⟩ s) := by
  rw [runToEnd_line]
  rfl

theorem runToEnd_takePerr (l : Latch) (h : Shadow) (rest : List Op) (s : State) :
    runToEnd (resume ⟨l, h, .takePerr :: rest⟩ s) =
      runToEnd (resume ⟨l, { h with trans := { h.trans with perr := h.trans.rpar ^^ parity h.trans.data } }, rest⟩ s) := by
  rw [runToEnd_line]
  rfl

theorem runToEnd_transactionOk (l : Latch) (h : Shadow) (rest : List Op) (s : State) :
    runToEnd (resume ⟨l, h, .transactionOk :: rest⟩ s) =
      runToEnd (resume ⟨l, { h with trans := { h.trans with ok := true } }, rest⟩ s) := by
  rw [runToEnd_line]
  rfl

theorem runToEnd_dumpCheck (l : Latch) (h : Shadow) (rest : List Op) (s : State) :
    runToEnd (resume ⟨l, h, .dumpCheck :: rest⟩ s) =
      runToEnd (resume ⟨l, { h with recAny := h.recAny || h.trans.recovered }, afterDumpCheck h.trans rest⟩ s) := by
  rw [runToEnd_line]
  rfl

theorem runToEnd_dumpRead (l : Latch) (h : Shadow) (i k : Nat) (rest : List Op) (s : State) :
    runToEnd (resume ⟨l, h, .dumpRead i k :: rest⟩ s) = runToEnd (resume ⟨l, h, dumpPass i k ++ rest⟩ s) := by
  rw [runToEnd_line]
  rfl

theorem runToEnd_storeWord (l : Latch) (h : Shadow) (k : Nat) (rest : List Op) (s : State) :
    runToEnd (resume ⟨l, h, .storeWord k :: rest⟩ s) =
      runToEnd (resume ⟨l, { h with words := h.words + 1 }, rest⟩ (storeWordBE k h.trans.data s)) := by
  rw [runToEnd_line]
  rfl

/-! ## The acceptance -/

theorem advance_nil {s : State} (h : s.sched = []) : advance s = runToEnd s := by
  have : ({ s with sched := [] } : State) = s := by cases s; simp_all
  rw [advance, h, advanceOn, this]

/-- The CMD write of a well-formed command with the engine idle (spec/30_encoding.md R90). -/
theorem cmdWrite_idle {i : Instr} {enter : Option SState} {prog : Params → Latch → List Op} {s : State}
    (hi : s.engine = .idle) (hw : i.wellFormed = true) :
    cmdWrite i enter prog s =
      if (prog s.params (latchOf i s)).all Op.cycleFree then runToEnd (accepted i enter prog s)
      else accepted i enter prog s := by
  simp [cmdWrite, busy_of_idle hi, hw]

/-- A command no host access falls into runs to its end (spec/10_state.md R47). -/
theorem issue_quiet {i : Instr} {enter : Option SState} {prog : Params → Latch → List Op} {s : State}
    (hq : Quiet s) (hw : i.wellFormed = true) :
    issue i enter prog s = .next (runToEnd (accepted i enter prog s)) := by
  have hs : (accepted i enter prog s).sched = [] := hq.2
  rw [issue, cmdWrite_idle hq.1 hw]
  have run_sched : ∀ (n : Nat) (t : State), (engineRun n t).sched = t.sched := by
    intro n
    induction n with
    | zero => intro t; rfl
    | succ n ih =>
      intro t
      cases hb : t.busy with
      | false => rw [engineRun_idle ((busy_eq_false_iff t).1 hb)]
      | true =>
        rw [engineRun_busy hb, ih]
        unfold engineStep
        cases t.engine with
        | idle => rfl
        | running r =>
          cases hp : r.prog with
          | nil => simp only [hp]
          | cons op rest =>
            simp only [hp]
            cases op with
            | complete e => cases e <;> rfl
            | _ => rfl
  split
  · rw [advance_nil (by rw [runToEnd, run_sched]; exact hs), runToEnd_idle (runToEnd_engine _)]
  · rw [advance_nil hs]

/-- The state right after the acceptance, as the engine's running state. -/
theorem accepted_eq (i : Instr) (prog : Params → Latch → List Op) (s : State) :
    accepted i none prog s = resume ⟨latchOf i s, Shadow.start, prog s.params (latchOf i s)⟩ s := rfl

end Sys2Proof.Laws
end

