-- ==== Sys2Proof/Laws/Runs.lean ====
section
/-! SUPPORT. What whole phases of a command's pseudocode do, in closed form: sends, reads, requests, data phases, the
recovery, a whole transaction (spec/41_codec.md, 43_transaction.md). -/

namespace Sys2Proof.Laws

open Sys2Proof.Machine

/-! ## Draws -/

theorem drawAt_skipDraws (n k : Nat) (s : State) : drawAt (skipDraws n s) k = drawAt s (n + k) := by
  unfold drawAt skipDraws
  simp only [List.getElem?_drop, List.length_drop]
  by_cases h : n + k < s.draws.length
  · simp [h]
  · rw [List.getElem?_eq_none (by omega)]
    simp only [Option.getD_none]
    congr 1
    omega

theorem skipDraws_skipDraws (n k : Nat) (s : State) : skipDraws k (skipDraws n s) = skipDraws (n + k) s := by
  unfold skipDraws
  simp only [List.drop_drop, List.length_drop]
  congr 1
  omega

/-- The draws depend on nothing but the environment. -/
theorem drawAt_congr {s t : State} (h₁ : t.draws = s.draws) (h₂ : t.drawIdx = s.drawIdx) (k : Nat) :
    drawAt t k = drawAt s k := by
  simp [drawAt, h₁, h₂]

@[simp] theorem drawAt_ran (s : State) (d : Dir) (o : Bool) (tr : List Cycle) (n k : Nat) :
    drawAt (ran s d o tr n) k = drawAt s (n + k) := by
  rw [← drawAt_skipDraws]
  rfl

theorem drawsAre_ran {w : Nat} {s : State} {d : Dir} {o : Bool} {tr : List Cycle} {n k m : Nat} {v : BitVec w}
    (h : DrawsAre s (n + k) v m) : DrawsAre (ran s d o tr n) k v m := by
  intro i hi
  rw [drawAt_ran, ← Nat.add_assoc]
  exact h i hi

/-! ## Runs of cycles compose -/

theorem ofNat_add_32 (a b : Nat) : BitVec.ofNat 32 (a + b) = BitVec.ofNat 32 a + BitVec.ofNat 32 b := by
  simp [BitVec.ofNat_add]

theorem ran_ran (s : State) (d₁ d₂ : Dir) (o₁ o₂ : Bool) (tr₁ tr₂ : List Cycle) (n₁ n₂ : Nat) :
    ran (ran s d₁ o₁ tr₁ n₁) d₂ o₂ tr₂ n₂ = ran s d₂ o₂ (tr₁ ++ tr₂) (n₁ + n₂) := by
  unfold ran skipDraws
  simp only [List.drop_drop, List.length_drop, List.append_assoc, List.length_append, ofNat_add_32, BitVec.add_assoc]
  congr 1
  omega

theorem ran_setDirection (s : State) (d' d : Dir) (o : Bool) (tr : List Cycle) (n : Nat) :
    ran (setDirection d' s) d o tr n = ran s d o tr n := rfl

theorem setDirection_ran (s : State) (d' d : Dir) (o : Bool) (tr : List Cycle) (n : Nat) :
    setDirection d' (ran s d o tr n) = ran s d' o tr n := rfl

@[simp] theorem ran_resume (r : Running) (s : State) (d : Dir) (o : Bool) (tr : List Cycle) (n : Nat) :
    ran (resume r s) d o tr n = resume r (ran s d o tr n) := rfl

/-- A run of no cycles, once SWCLK is high. -/
theorem ran_nil (s : State) (h : s.swclk = true) : ran s s.dir s.swdioO [] 0 = s := by
  cases s
  simp_all [ran, skipDraws]

theorem ran_ran_nil (s : State) (d : Dir) (o : Bool) (tr : List Cycle) (n : Nat) :
    ran (ran s d o tr n) d o [] 0 = ran s d o tr n := by
  rw [ran_ran]
  simp

/-- What the block drives at direction d with output o. -/
def drives (d : Dir) (o : Bool) : Option Bool :=
  match d with
  | .out => some o
  | .inp => none

theorem driven_eq (s : State) : driven s = drives s.dir s.swdioO := rfl

theorem skipDraws_zero (s : State) : skipDraws 0 s = s := by
  cases s
  simp [skipDraws]

theorem pulseClock_eq_ran (s : State) :
    pulseClock s = ran s s.dir s.swdioO [{ drv := drives s.dir s.swdioO, smp := none }] 0 := by
  unfold ran
  rw [skipDraws_zero]
  rfl

theorem writeBit_eq_ran (v : Bool) (s : State) :
    writeBit v s = ran s s.dir v [{ drv := drives s.dir v, smp := none }] 0 := by
  unfold ran
  rw [skipDraws_zero]
  rfl

theorem readBit_eq_ran (s : State) :
    readBit s = ran s s.dir s.swdioO [{ drv := drives s.dir s.swdioO, smp := some (drawAt s 0) }] 1 := rfl

/-! ## Sending and reading bits -/

/-- Sending the bits of a list, from a state that a run of cycles left. -/
theorem runToEnd_writes (l : Latch) (h : Shadow) (rest : List Op) (bs : List Bool) :
    ∀ (s : State) (d : Dir) (o : Bool) (tr : List Cycle) (n : Nat),
    runToEnd (resume ⟨l, h, bs.map .writeBit ++ rest⟩ (ran s d o tr n)) =
      runToEnd (resume ⟨l, h, rest⟩
        (ran s d (bs.getLastD o) (tr ++ bs.map (fun b => { drv := drives d b, smp := none })) n)) := by
  induction bs with
  | nil => intro s d o tr n; simp
  | cons b bs ih =>
    intro s d o tr n
    rw [List.map_cons, List.cons_append, runToEnd_writeBit, writeBit_eq_ran, ran_ran]
    simp only [ran_dir, Nat.add_zero]
    rw [ih]
    simp only [List.map_cons, List.append_assoc, List.cons_append, List.nil_append, List.getLastD_cons]

theorem writeBits_eq_map {w : Nat} (v : BitVec w) (n : Nat) :
    writeBits v n = ((List.range n).map (fun i => v.getLsbD i)).map .writeBit := by
  simp [writeBits, Function.comp_def]

theorem getLastD_bits {w : Nat} (v : BitVec w) (n : Nat) (o : Bool) :
    ((List.range (n + 1)).map (fun i => v.getLsbD i)).getLastD o = v.getLsbD n := by
  simp [List.range_succ]

/-- `WriteBits(v, n)` in the middle of a command, n at least 1 (spec/41_codec.md R140). -/
theorem runToEnd_writeBits {w : Nat} (l : Latch) (h : Shadow) (rest : List Op) (v : BitVec w) (n : Nat)
    (s : State) (d : Dir) (o : Bool) (tr : List Cycle) (m : Nat) :
    runToEnd (resume ⟨l, h, writeBits v (n + 1) ++ rest⟩ (ran s d o tr m)) =
      runToEnd (resume ⟨l, h, rest⟩ (ran s d (v.getLsbD n)
        (tr ++ (List.range (n + 1)).map (fun i => { drv := drives d (v.getLsbD i), smp := none })) m)) := by
  rw [writeBits_eq_map, runToEnd_writes, getLastD_bits]
  simp [Function.comp_def]

/-- The same with the line driven. -/
theorem runToEnd_sends {w : Nat} (l : Latch) (h : Shadow) (rest : List Op) (v : BitVec w) (n : Nat)
    (s : State) (o : Bool) (tr : List Cycle) (m : Nat) :
    runToEnd (resume ⟨l, h, writeBits v (n + 1) ++ rest⟩ (ran s .out o tr m)) =
      runToEnd (resume ⟨l, h, rest⟩ (ran s .out (v.getLsbD n) (tr ++ sent v (n + 1)) m)) :=
  runToEnd_writeBits l h rest v n s .out o tr m

/-- The first `WriteBits` of a command, from any state. -/
theorem runToEnd_writeBits_first {w : Nat} (l : Latch) (h : Shadow) (rest : List Op) (v : BitVec w) (n : Nat)
    (s : State) :
    runToEnd (resume ⟨l, h, writeBits v (n + 1) ++ rest⟩ s) =
      runToEnd (resume ⟨l, h, rest⟩ (ran s s.dir (v.getLsbD n)
        ((List.range (n + 1)).map (fun i => { drv := drives s.dir (v.getLsbD i), smp := none })) 0)) := by
  cases n with
  | zero =>
    rw [show writeBits v (0 + 1) = [.writeBit (v.getLsbD 0)] from rfl, List.cons_append, List.nil_append,
      runToEnd_writeBit, writeBit_eq_ran]
    rfl
  | succ n =>
    have hl := getLastD_bits v (n + 1) false
    rw [writeBits_eq_map]
    rw [List.range_succ_eq_map, List.map_cons] at hl ⊢
    rw [List.map_cons, List.cons_append, runToEnd_writeBit, writeBit_eq_ran, runToEnd_writes, List.map_cons]
    rw [List.getLastD_cons] at hl
    rw [hl]
    simp [Function.comp_def]

/-- The bits sampled into the shadow results. -/
def takeDraws (s : State) (dst : Nat → ReadDst) (n : Nat) (h : Shadow) : Shadow :=
  (List.range n).foldl (fun h i => h.take (drawAt s i) (dst i)) h

theorem takeDraws_congr {s t : State} (dst : Nat → ReadDst) (n : Nat) (h : Shadow)
    (hd : ∀ i, i < n → drawAt t i = drawAt s i) : takeDraws t dst n h = takeDraws s dst n h := by
  induction n with
  | zero => rfl
  | succ n ih =>
    simp only [takeDraws, List.range_succ, List.foldl_append, List.foldl_cons, List.foldl_nil] at ih ⊢
    rw [ih (fun i hi => hd i (by omega)), hd n (by omega)]

theorem takeDraws_succ (s : State) (dst : Nat → ReadDst) (n : Nat) (h : Shadow) :
    takeDraws s dst (n + 1) h = (takeDraws s dst n h).take (drawAt s n) (dst n) := by
  simp [takeDraws, List.range_succ]

/-- `ReadBits(n)` in the middle of a command (R141). -/
theorem runToEnd_readBits (l : Latch) (h : Shadow) (rest : List Op) (dst : Nat → ReadDst) (n : Nat)
    (s : State) (d : Dir) (o : Bool) (tr : List Cycle) (m : Nat) :
    runToEnd (resume ⟨l, h, readBits dst n ++ rest⟩ (ran s d o tr m)) =
      runToEnd (resume ⟨l, takeDraws (ran s d o tr m) dst n h, rest⟩ (ran s d o
        (tr ++ (List.range n).map (fun i => { drv := drives d o, smp := some (drawAt s (m + i)) })) (m + n))) := by
  induction n generalizing rest with
  | zero => simp [readBits, takeDraws]
  | succ n ih =>
    have hs : readBits dst (n + 1) ++ rest = readBits dst n ++ (.readBit (dst n) :: rest) := by
      simp [readBits, List.range_succ]
    rw [hs, ih, runToEnd_readBit, readBit_eq_ran, ran_ran, sample, drawAt_ran, takeDraws_succ, drawAt_ran]
    simp [List.range_succ, Nat.add_assoc]

/-- The first `ReadBits` of a command, from any state. -/
theorem runToEnd_readBits_first (l : Latch) (h : Shadow) (rest : List Op) (dst : Nat → ReadDst) (n : Nat)
    (s : State) :
    runToEnd (resume ⟨l, h, readBits dst (n + 1) ++ rest⟩ s) =
      runToEnd (resume ⟨l, takeDraws s dst (n + 1) h, rest⟩ (ran s s.dir s.swdioO
        ((List.range (n + 1)).map (fun i => { drv := drives s.dir s.swdioO, smp := some (drawAt s i) })) (n + 1))) := by
  induction n generalizing rest with
  | zero =>
    rw [show readBits dst (0 + 1) = [.readBit (dst 0)] from rfl, List.cons_append, List.nil_append, runToEnd_readBit,
      readBit_eq_ran]
    rfl
  | succ n ih =>
    have hs : readBits dst (n + 1 + 1) ++ rest = readBits dst (n + 1) ++ (.readBit (dst (n + 1)) :: rest) := by
      simp [readBits, List.range_succ]
    rw [hs, ih, runToEnd_readBit, readBit_eq_ran, ran_ran, sample, drawAt_ran, takeDraws_succ s dst (n + 1)]
    simp [List.range_succ, Nat.add_assoc]

/-! ## What reading leaves in the shadow results -/

theorem getLsbD_setBit {w : Nat} (v : BitVec w) (i j : Nat) (b : Bool) (hj : j < w) :
    (setBit v i b).getLsbD j = if j = i then b else v.getLsbD j := by
  unfold setBit
  by_cases hij : j = i
  · subst hij
    cases b <;> simp [hj]
  · by_cases hlt : j < i
    · cases b <;> simp [hj, hij, hlt]
    · have : j - i ≠ 0 := by omega
      cases b <;> simp [hj, hij, hlt, this]

/-- Setting bits 0 to n - 1 in turn. -/
theorem getLsbD_foldl_setBit {w : Nat} (f : Nat → Bool) (n : Nat) (v : BitVec w) (j : Nat) (hj : j < w) :
    ((List.range n).foldl (fun v i => setBit v i (f i)) v).getLsbD j = if j < n then f j else v.getLsbD j := by
  induction n with
  | zero => simp
  | succ n ih =>
    rw [List.range_succ, List.foldl_append, List.foldl_cons, List.foldl_nil, getLsbD_setBit _ _ _ _ hj, ih]
    by_cases h : j = n
    · subst h
      simp
    · by_cases h' : j < n
      · simp [h, h', Nat.lt_succ_of_lt h']
      · simp [h, h', show ¬ j < n + 1 by omega]

/-- Reading n bits that come as the bits of u, u having no others. -/
theorem foldl_setBit_eq {w : Nat} (f : Nat → Bool) (n : Nat) (u : BitVec w)
    (hf : ∀ i, i < n → f i = u.getLsbD i) (hu : ∀ i, n ≤ i → u.getLsbD i = false) :
    (List.range n).foldl (fun v i => setBit v i (f i)) 0#w = u := by
  apply BitVec.eq_of_getLsbD_eq
  intro j hj
  rw [getLsbD_foldl_setBit _ _ _ _ hj]
  by_cases h : j < n
  · simp [h, hf j h]
  · simp [h, hu j (by omega)]

theorem foldl_setBit_full {w : Nat} (f : Nat → Bool) (u v : BitVec w)
    (hf : ∀ i, i < w → f i = u.getLsbD i) :
    (List.range w).foldl (fun v i => setBit v i (f i)) v = u := by
  apply BitVec.eq_of_getLsbD_eq
  intro j hj
  rw [getLsbD_foldl_setBit _ _ _ _ hj]
  simp [hj, hf j hj]

theorem takeDraws_value (s : State) (n : Nat) (h : Shadow) :
    takeDraws s .value n h = { h with value := (List.range n).foldl (fun v i => setBit v i (drawAt s i)) h.value } := by
  induction n with
  | zero => rfl
  | succ n ih =>
    rw [takeDraws_succ, ih]
    simp [Shadow.take, List.range_succ]

theorem takeDraws_ack1 (s : State) (n : Nat) (h : Shadow) :
    takeDraws s .ack1 n h = { h with trans := { h.trans with
      ack1 := (List.range n).foldl (fun v i => setBit v i (drawAt s i)) h.trans.ack1 } } := by
  induction n with
  | zero => rfl
  | succ n ih =>
    rw [takeDraws_succ, ih]
    simp [Shadow.take, List.range_succ]

theorem takeDraws_acka (s : State) (n : Nat) (h : Shadow) :
    takeDraws s .acka n h = { h with trans := { h.trans with
      acka := (List.range n).foldl (fun v i => setBit v i (drawAt s i)) h.trans.acka } } := by
  induction n with
  | zero => rfl
  | succ n ih =>
    rw [takeDraws_succ, ih]
    simp [Shadow.take, List.range_succ]

theorem takeDraws_ack2 (s : State) (n : Nat) (h : Shadow) :
    takeDraws s .ack2 n h = { h with trans := { h.trans with
      ack2 := (List.range n).foldl (fun v i => setBit v i (drawAt s i)) h.trans.ack2 } } := by
  induction n with
  | zero => rfl
  | succ n ih =>
    rw [takeDraws_succ, ih]
    simp [Shadow.take, List.range_succ]

theorem takeDraws_data (s : State) (n : Nat) (h : Shadow) :
    takeDraws s .data n h = { h with trans := { h.trans with
      data := (List.range n).foldl (fun v i => setBit v i (drawAt s i)) h.trans.data } } := by
  induction n with
  | zero => rfl
  | succ n ih =>
    rw [takeDraws_succ, ih]
    simp [Shadow.take, List.range_succ]

theorem drawsAre_zero {w : Nat} {s : State} {v : BitVec w} {n : Nat} (h : DrawsAre s 0 v n) :
    ∀ i, i < n → drawAt s i = v.getLsbD i := by
  intro i hi
  have := h i hi
  rwa [Nat.zero_add] at this

/-- The cycles that sample draws known as bits of v. -/
theorem map_draws_eq_got {w : Nat} {s : State} {v : BitVec w} {k n : Nat} (h : DrawsAre s k v n) :
    (List.range n).map (fun i => ({ drv := none, smp := some (drawAt s (k + i)) } : Cycle)) = got v n := by
  unfold got
  apply List.map_congr_left
  intro i hi
  rw [h i (List.mem_range.1 hi)]
  rfl

/-! ## The building blocks of a transaction -/

/-- A request from a state that a run of cycles left, its ACK going to `dst` (spec/43_transaction.md R190). -/
theorem runToEnd_request {l : Latch} {h : Shadow} {rest : List Op} {r : Byte} {dst : Nat → ReadDst} {a : Ack}
    {s : State} {d : Dir} {o : Bool} {tr : List Cycle} {m : Nat} (ha : DrawsAre s m a 3) :
    runToEnd (resume ⟨l, h, request r dst ++ rest⟩ (ran s d o tr m)) =
      runToEnd (resume ⟨l, takeDraws (ran s .inp (r.getLsbD 7) (tr ++ (sent r 8 ++ [wireZ])) m) dst 3 h, rest⟩
        (ran s .inp (r.getLsbD 7) (tr ++ requestTrace r a) (m + 3))) := by
  unfold request
  rw [List.cons_append, runToEnd_setDirection, setDirection_ran, List.append_assoc, runToEnd_sends, List.cons_append,
    runToEnd_setDirection, setDirection_ran, List.cons_append, runToEnd_pulseClock, pulseClock_eq_ran, ran_ran]
  simp only [ran_dir, ran_swdioO, drives]
  rw [runToEnd_readBits]
  simp only [drives, Nat.add_zero]
  rw [map_draws_eq_got ha]
  simp [requestTrace, wireZ]

/-- A request as the first lines of a command, from any state. -/
theorem runToEnd_request_first {l : Latch} {h : Shadow} {rest : List Op} {r : Byte} {dst : Nat → ReadDst} {a : Ack}
    {s : State} (ha : DrawsAre s 0 a 3) :
    runToEnd (resume ⟨l, h, request r dst ++ rest⟩ s) =
      runToEnd (resume ⟨l, takeDraws s dst 3 h, rest⟩ (ran s .inp (r.getLsbD 7) (requestTrace r a) 3)) := by
  unfold request
  rw [List.cons_append, runToEnd_setDirection, List.append_assoc, runToEnd_writeBits_first]
  simp only [setDirection_dir, ran_setDirection, drives]
  rw [List.cons_append, runToEnd_setDirection, setDirection_ran, List.cons_append, runToEnd_pulseClock,
    pulseClock_eq_ran, ran_ran]
  simp only [ran_dir, ran_swdioO, drives]
  rw [runToEnd_readBits]
  simp only [drives, Nat.add_zero]
  rw [map_draws_eq_got ha, takeDraws_congr (s := s) dst 3 h (by intro i _; simp)]
  simp only [requestTrace, sent, wireZ, wireW, List.append_assoc, List.cons_append, List.nil_append]

theorem runToEnd_pulses (l : Latch) (h : Shadow) (rest : List Op) (k : Nat) :
    ∀ (s : State) (o : Bool) (tr : List Cycle) (m : Nat),
    runToEnd (resume ⟨l, h, List.replicate k .pulseClock ++ rest⟩ (ran s .inp o tr m)) =
      runToEnd (resume ⟨l, h, rest⟩ (ran s .inp o (tr ++ List.replicate k wireZ) m)) := by
  induction k with
  | zero => intro s o tr m; simp
  | succ k ih =>
    intro s o tr m
    rw [List.replicate_succ, List.cons_append, runToEnd_pulseClock, pulseClock_eq_ran, ran_ran]
    simp only [ran_dir, ran_swdioO, drives, Nat.add_zero]
    rw [ih]
    simp [wireZ, List.replicate_succ]

/-- TurnToWrite after the target drove the line (R192). -/
theorem runToEnd_turnToWrite (l : Latch) (h : Shadow) (rest : List Op) (p : Params) (s : State) (o : Bool)
    (tr : List Cycle) (m : Nat) :
    runToEnd (resume ⟨l, h, turnToWrite p ++ rest⟩ (ran s .inp o tr m)) =
      runToEnd (resume ⟨l, h, rest⟩ (ran s .out o (tr ++ turnTrace p) m)) := by
  unfold turnToWrite
  rw [List.append_assoc, runToEnd_pulses, List.cons_append, List.nil_append, runToEnd_setDirection, setDirection_ran]
  rfl

/-- Four idle bits leave SWDIO_O at 0 (spec/30_encoding.md R100). -/
theorem runToEnd_idleBits4 (l : Latch) (h : Shadow) (rest : List Op) (s : State) (o : Bool) (tr : List Cycle)
    (m : Nat) :
    runToEnd (resume ⟨l, h, idleBits4 ++ rest⟩ (ran s .out o tr m)) =
      runToEnd (resume ⟨l, h, rest⟩ (ran s .out false (tr ++ idleTrace) m)) := by
  unfold idleBits4
  rw [runToEnd_sends]
  rfl

/-- A write data phase (R194). -/
theorem runToEnd_writePhase (l : Latch) (h : Shadow) (rest : List Op) (p : Params) (v : Word) (s : State) (o : Bool)
    (tr : List Cycle) (m : Nat) :
    runToEnd (resume ⟨l, h, writePhase p v ++ rest⟩ (ran s .inp o tr m)) =
      runToEnd (resume ⟨l, h, rest⟩ (ran s .out false (tr ++ writeTrace p v) m)) := by
  unfold writePhase
  rw [List.append_assoc, runToEnd_turnToWrite, List.append_assoc, runToEnd_sends, List.cons_append,
    runToEnd_writeBit, writeBit_eq_ran, ran_ran]
  simp only [ran_dir, drives, Nat.add_zero]
  rw [runToEnd_idleBits4]
  simp [writeTrace, wireW]

/-- What a read data phase records in T (R193, R195). -/
def readRecord (t : Trans) (d : Word) (par : Bool) : Trans :=
  { t with data := d, rpar := par, perr := par ^^ parity d, ok := true }

/-- A read data phase and the end of its transaction (R193, R195). -/
theorem runToEnd_dataPhase_rd {l : Latch} {h : Shadow} {rest : List Op} {p : Params} {d : Word} {par : Bool}
    {s : State} {o : Bool} {tr : List Cycle} {m : Nat} (hd : DrawsAre s m d 32) (hp : drawAt s (m + 32) = par) :
    runToEnd (resume ⟨l, h, dataPhase p .rd ++ rest⟩ (ran s .inp o tr m)) =
      runToEnd (resume ⟨l, { h with trans := readRecord h.trans d par }, rest⟩
        (ran s .out false (tr ++ readTrace d par) (m + 33))) := by
  have hfull : (List.range 32).foldl
      (fun v i => setBit v i (drawAt (ran s .inp o tr m) i)) h.trans.data = d := by
    apply foldl_setBit_full
    intro i hi
    rw [drawAt_ran]
    exact hd i hi
  unfold dataPhase readPhase
  simp only [List.append_assoc, List.cons_append, List.nil_append]
  rw [runToEnd_readBits]
  simp only [drives]
  rw [map_draws_eq_got hd, takeDraws_data, hfull, runToEnd_readBit, readBit_eq_ran, ran_ran, sample]
  simp only [ran_dir, ran_swdioO, drives, drawAt_ran, Nat.add_zero]
  rw [hp, runToEnd_setDirection, setDirection_ran, runToEnd_idleBits4, runToEnd_takePerr, runToEnd_transactionOk]
  simp [readTrace, wireR, Shadow.take, readRecord, Nat.add_assoc]

/-- A write data phase and the end of its transaction (R194, R195). -/
theorem runToEnd_dataPhase_wr (l : Latch) (h : Shadow) (rest : List Op) (p : Params) (v : Word) (s : State) (o : Bool)
    (tr : List Cycle) (m : Nat) :
    runToEnd (resume ⟨l, h, dataPhase p (.wr v) ++ rest⟩ (ran s .inp o tr m)) =
      runToEnd (resume ⟨l, { h with trans := { h.trans with ok := true } }, rest⟩
        (ran s .out false (tr ++ writeTrace p v) m)) := by
  unfold dataPhase
  rw [List.append_assoc, runToEnd_writePhase, List.cons_append, List.nil_append, runToEnd_transactionOk]

/-- The recovery up to its ACK test, from the failed first ACK (R196). -/
theorem runToEnd_recoverLead {l : Latch} {h : Shadow} {rest : List Op} {p : Params} {r : Byte} {aa a2 : Ack}
    {s : State} {o : Bool} {tr : List Cycle} {m : Nat} (ha : DrawsAre s m aa 3) (h2 : DrawsAre s (m + 3) a2 3) :
    runToEnd (resume ⟨l, h, recoverLead p r ++ rest⟩ (ran s .inp o tr m)) =
      runToEnd (resume ⟨l, { h with trans := { h.trans with acka := aa, ack2 := a2 } }, rest⟩
        (ran s .inp (r.getLsbD 7) (tr ++ recoverTrace p r aa a2) (m + 6))) := by
  unfold recoverLead
  simp only [List.append_assoc]
  rw [runToEnd_turnToWrite, runToEnd_request ha, runToEnd_writePhase, runToEnd_request h2, takeDraws_acka, takeDraws_ack2]
  rw [foldl_setBit_full (u := aa), foldl_setBit_full (u := a2)]
  · simp [recoverTrace, Nat.add_assoc]
  · intro i hi
    rw [drawAt_ran]
    exact h2 i hi
  · intro i hi
    rw [drawAt_ran]
    exact ha i hi

/-! ## Whole transactions (R195, R196) -/

/-- T after a transaction that recovered or failed, before its data phase. -/
def recoverRecord (a1 aa a2 : Ack) : Trans :=
  { Trans.start with ack1 := a1, acka := aa, ack2 := a2, recovered := true }

theorem ack1_of_draws {s : State} {a : Ack} (h : Shadow) (ha : ∀ i, i < 3 → drawAt s i = a.getLsbD i) :
    takeDraws s .ack1 3 { h with trans := Trans.start } = { h with trans := { Trans.start with ack1 := a } } := by
  rw [takeDraws_ack1, foldl_setBit_full (u := a) _ _ ha]

/-- A transaction as the first lines of a command, up to what its first ACK decides. -/
theorem runToEnd_transact_first {l : Latch} {h : Shadow} {rest : List Op} {r : Byte} {x : XferDir} {a1 : Ack}
    {s : State} (h1 : DrawsAre s 0 a1 3) :
    runToEnd (resume ⟨l, h, transact r x ++ rest⟩ s) =
      runToEnd (resume ⟨l, { h with trans := { Trans.start with ack1 := a1, recovered := decide (a1 ≠ Config.ackOk) } },
        (if a1 = Config.ackOk then dataPhase s.params x else recover s.params r x) ++ rest⟩
        (ran s .inp (r.getLsbD 7) (requestTrace r a1) 3)) := by
  unfold transact
  rw [List.cons_append, runToEnd_newTransaction, List.append_assoc, runToEnd_request_first h1,
    ack1_of_draws h (drawsAre_zero h1), List.cons_append, List.nil_append, runToEnd_testAck1]
  rfl

/-- A transaction in the middle of a command, up to what its first ACK decides. -/
theorem runToEnd_transact {l : Latch} {h : Shadow} {rest : List Op} {r : Byte} {x : XferDir} {a1 : Ack}
    {s : State} {d : Dir} {o : Bool} {tr : List Cycle} {m : Nat} (h1 : DrawsAre s m a1 3) :
    runToEnd (resume ⟨l, h, transact r x ++ rest⟩ (ran s d o tr m)) =
      runToEnd (resume ⟨l, { h with trans := { Trans.start with ack1 := a1, recovered := decide (a1 ≠ Config.ackOk) } },
        (if a1 = Config.ackOk then dataPhase s.params x else recover s.params r x) ++ rest⟩
        (ran s .inp (r.getLsbD 7) (tr ++ requestTrace r a1) (m + 3))) := by
  unfold transact
  rw [List.cons_append, runToEnd_newTransaction, List.append_assoc, runToEnd_request h1,
    ack1_of_draws h (by intro i hi; rw [drawAt_ran]; exact h1 i hi), List.cons_append, List.nil_append,
    runToEnd_testAck1]
  rfl

/-- The recovery up to what the reissued ACK decides (R196). -/
theorem runToEnd_recover {l : Latch} {h : Shadow} {rest : List Op} {p : Params} {r : Byte} {x : XferDir} {aa a2 : Ack}
    {s : State} {o : Bool} {tr : List Cycle} {m : Nat} (hp : s.params = p) (ha : DrawsAre s m aa 3)
    (h2 : DrawsAre s (m + 3) a2 3) :
    runToEnd (resume ⟨l, h, recover p r x ++ rest⟩ (ran s .inp o tr m)) =
      runToEnd (resume ⟨l, { h with trans := { h.trans with acka := aa, ack2 := a2 } },
        (if a2 = Config.ackOk then dataPhase p x else turnToWrite p) ++ rest⟩
        (ran s .inp (r.getLsbD 7) (tr ++ recoverTrace p r aa a2) (m + 6))) := by
  unfold recover
  rw [List.append_assoc, runToEnd_recoverLead ha h2, List.cons_append, List.nil_append, runToEnd_testAck2]
  subst hp
  rfl

/-! ## A transaction by how it goes -/

/-- T after a data phase (R193, R194). -/
def doneRecord (t : Trans) (d : Word) (par : Bool) : XferDir → Trans
  | .rd => readRecord t d par
  | .wr _ => { t with ok := true }

/-- T after a transaction that went so (R195, R196). -/
def replyRecord (x : XferDir) : Reply → Trans
  | .clean d par => doneRecord { Trans.start with ack1 := Config.ackOk } d par x
  | .recovered a1 aa d par => doneRecord (recoverRecord a1 aa Config.ackOk) d par x
  | .failed a1 aa a2 => recoverRecord a1 aa a2

@[simp] theorem packAcks_replyRecord (x : XferDir) (q : Reply) : packAcks (replyRecord x q) = packAcks (q.record x) := by
  cases q <;> cases x <;> rfl

@[simp] theorem ok_replyRecord (x : XferDir) (q : Reply) : (replyRecord x q).ok = q.succeeds := by
  cases q <;> cases x <;> rfl

@[simp] theorem recovered_replyRecord (x : XferDir) (q : Reply) : (replyRecord x q).recovered = q.recovers := by
  cases q <;> cases x <;> rfl

@[simp] theorem data_replyRecord (q : Reply) : (replyRecord .rd q).data = q.word := by
  cases q <;> rfl

/-- The output a transaction leaves: an idle bit, or, failed, the request's last bit. -/
def replyOutput (r : Byte) (q : Reply) : Bool := !q.succeeds && r.getLsbD 7

/-- A data phase and the end of its transaction (R193, R194). -/
theorem runToEnd_dataPhase {l : Latch} {h : Shadow} {rest : List Op} {p : Params} {x : XferDir} {d : Word} {par : Bool}
    {s : State} {o : Bool} {tr : List Cycle} {m : Nat} (hd : DataDrawn s m d par x) :
    runToEnd (resume ⟨l, h, dataPhase p x ++ rest⟩ (ran s .inp o tr m)) =
      runToEnd (resume ⟨l, { h with trans := doneRecord h.trans d par x }, rest⟩
        (ran s .out false (tr ++ dataTrace p d par x) (m + x.draws))) := by
  cases x with
  | rd => exact runToEnd_dataPhase_rd hd.1 hd.2
  | wr v => exact runToEnd_dataPhase_wr l h rest p v s o tr m

/-- How a transaction goes depends on nothing but the environment. -/
theorem drawn_congr {s t : State} (h₁ : t.draws = s.draws) (h₂ : t.drawIdx = s.drawIdx) {k : Nat} {x : XferDir}
    {q : Reply} (hq : q.Drawn s k x) : q.Drawn t k x := by
  cases q <;> cases x <;> simpa [Reply.Drawn, DataDrawn, DrawsAre, drawAt_congr h₁ h₂] using hq

/-- The first three draws of a transaction are its first ACK. -/
theorem ack1_drawn {s : State} {m : Nat} {x : XferDir} {q : Reply} (hq : q.Drawn s m x) :
    DrawsAre s m (replyRecord x q).ack1 3 := by
  cases q <;> cases x <;> exact hq.1

/-- A transaction from its first ACK on, by how it goes. -/
theorem runToEnd_reply_tail {l : Latch} {h : Shadow} {rest : List Op} {r : Byte} {x : XferDir} {q : Reply}
    {s : State} {tr : List Cycle} {m : Nat} (hq : q.Drawn s m x) :
    runToEnd (resume ⟨l,
        { h with trans := { Trans.start with
          ack1 := (replyRecord x q).ack1, recovered := decide ((replyRecord x q).ack1 ≠ Config.ackOk) } },
        (if (replyRecord x q).ack1 = Config.ackOk then dataPhase s.params x else recover s.params r x) ++ rest⟩
        (ran s .inp (r.getLsbD 7) (tr ++ requestTrace r (replyRecord x q).ack1) (m + 3))) =
      runToEnd (resume ⟨l, { h with trans := replyRecord x q }, rest⟩
        (ran s .out (replyOutput r q) (tr ++ q.trace s.params r x) (m + q.draws x))) := by
  cases q with
  | clean w par =>
    have ha : (replyRecord x (.clean w par)).ack1 = Config.ackOk := by cases x <;> rfl
    rw [ha, if_pos rfl, runToEnd_dataPhase hq.2]
    simp only [Reply.trace, Reply.draws, Nat.add_assoc, List.append_assoc]
    rfl
  | recovered a1 aa w par =>
    obtain ⟨-, hn, h2, h3, h4⟩ := hq
    have ha : (replyRecord x (.recovered a1 aa w par)).ack1 = a1 := by cases x <;> rfl
    rw [ha, if_neg hn, runToEnd_recover rfl h2 h3, if_pos rfl, runToEnd_dataPhase h4]
    simp only [Reply.trace, Reply.draws, Nat.add_assoc, List.append_assoc, hn, ne_eq, not_false_eq_true, decide_true]
    rfl
  | failed a1 aa a2 =>
    obtain ⟨-, hn, h2, h3, h4⟩ := hq
    rw [show (replyRecord x (.failed a1 aa a2)).ack1 = a1 from rfl, if_neg hn, runToEnd_recover rfl h2 h3, if_neg h4,
      runToEnd_turnToWrite]
    simp only [Reply.trace, Reply.draws, Nat.add_assoc, List.append_assoc, hn, ne_eq, not_false_eq_true, decide_true]
    rfl

/-- A whole transaction in the middle of a command, by how it goes (R195, R196). -/
theorem runToEnd_reply {l : Latch} {h : Shadow} {rest : List Op} {r : Byte} {x : XferDir} {q : Reply}
    {s : State} {d : Dir} {o : Bool} {tr : List Cycle} {m : Nat} (hq : q.Drawn s m x) :
    runToEnd (resume ⟨l, h, transact r x ++ rest⟩ (ran s d o tr m)) =
      runToEnd (resume ⟨l, { h with trans := replyRecord x q }, rest⟩
        (ran s .out (replyOutput r q) (tr ++ q.trace s.params r x) (m + q.draws x))) := by
  rw [runToEnd_transact (ack1_drawn hq), runToEnd_reply_tail hq]

/-- A whole transaction as the first lines of a command, by how it goes (R195, R196). -/
theorem runToEnd_reply_first {l : Latch} {h : Shadow} {rest : List Op} {r : Byte} {x : XferDir} {q : Reply}
    {s : State} (hq : q.Drawn s 0 x) :
    runToEnd (resume ⟨l, h, transact r x ++ rest⟩ s) =
      runToEnd (resume ⟨l, { h with trans := replyRecord x q }, rest⟩
        (ran s .out (replyOutput r q) (q.trace s.params r x) (q.draws x))) := by
  rw [runToEnd_transact_first (ack1_drawn hq)]
  simpa using runToEnd_reply_tail (l := l) (h := h) (rest := rest) (r := r) (tr := []) hq

/-! ## The phases of a session (42_session.md) -/

/-- A line reset with the line driven (R162); what it leaves on SWDIO_O depends on its two counts. -/
theorem runToEnd_lineReset (l : Latch) (h : Shadow) (rest : List Op) (p : Params) (s : State) (o : Bool)
    (tr : List Cycle) (m : Nat) :
    ∃ o', runToEnd (resume ⟨l, h, lineReset p ++ rest⟩ (ran s .out o tr m)) =
      runToEnd (resume ⟨l, h, rest⟩ (ran s .out o' (tr ++ lineResetTrace p) m)) := by
  refine ⟨(List.replicate p.lineResetIdle false).getLastD ((List.replicate p.lineResetHigh true).getLastD o), ?_⟩
  have hb : ∀ (b : Bool) (n : Nat), List.replicate n (Op.writeBit b) = (List.replicate n b).map .writeBit := by simp
  unfold lineReset
  rw [hb, hb, List.append_assoc, runToEnd_writes, runToEnd_writes]
  simp [lineResetTrace, drives, wireW]

/-- Wake, from any state (R163). -/
theorem runToEnd_wake (l : Latch) (h : Shadow) (rest : List Op) (s : State) :
    runToEnd (resume ⟨l, h, wake ++ rest⟩ s) =
      runToEnd (resume ⟨l, h, rest⟩ (ran s .out false (sent alert 128 ++ (idleTrace ++ sent activation 8)) 0)) := by
  unfold wake
  simp only [List.cons_append, List.append_assoc]
  rw [runToEnd_setDirection, runToEnd_writeBits_first]
  simp only [setDirection_dir, ran_setDirection, drives]
  rw [runToEnd_sends, runToEnd_sends, runToEnd_sends, runToEnd_idleBits4, runToEnd_sends]
  congr 3

end Sys2Proof.Laws
end

