-- ==== Sys2Proof/Laws/Step.lean ====
section
/-! SUPPORT. What the engine leaves alone, how a property passes through the run between two host accesses, and the cases
of a CMD write and of a step (spec/10_state.md R46, R47, 20_memory.md R72, 30_encoding.md R90). -/

namespace Sys2Proof.Laws

open Sys2Proof.Machine

/-! ## What an engine step leaves alone -/

/-- Which fields of the state no line of any command writes. -/
structure EngineLeaves (s t : State) : Prop where
  errCmd : t.errCmd = s.errCmd
  errBusy : t.errBusy = s.errBusy
  wdata : t.wdata = s.wdata
  dlen : t.dlen = s.dlen
  params : t.params = s.params
  bufEpoch : t.bufEpoch = s.bufEpoch
  sched : t.sched = s.sched
  inReset : t.inReset = s.inReset
  resp : t.resp = s.resp

theorem EngineLeaves.rfl' (s : State) : EngineLeaves s s := ⟨rfl, rfl, rfl, rfl, rfl, rfl, rfl, rfl, rfl⟩

theorem EngineLeaves.trans {s t u : State} (h : EngineLeaves s t) (k : EngineLeaves t u) : EngineLeaves s u :=
  ⟨k.1.trans h.1, k.2.trans h.2, k.3.trans h.3, k.4.trans h.4, k.5.trans h.5, k.6.trans h.6, k.7.trans h.7,
    k.8.trans h.8, k.9.trans h.9⟩

theorem runLine_leaves (op : Op) (r : Running) (s : State) : EngineLeaves s (runLine op r s) := by
  cases op with
  | complete e => cases e <;> exact ⟨rfl, rfl, rfl, rfl, rfl, rfl, rfl, rfl, rfl⟩
  | _ => exact ⟨rfl, rfl, rfl, rfl, rfl, rfl, rfl, rfl, rfl⟩

/-- The three cases of an engine step. -/
theorem engineStep_cases (s : State) :
    (s.engine = .idle ∧ engineStep s = s) ∨
    (∃ r, s.engine = .running r ∧ r.prog = [] ∧ engineStep s = { s with engine := .idle }) ∨
    (∃ r op rest, s.engine = .running r ∧ r.prog = op :: rest ∧
      engineStep s = runLine op { r with prog := rest } s) := by
  cases he : s.engine with
  | idle => exact .inl ⟨rfl, by simp [engineStep, he]⟩
  | running r =>
    cases hp : r.prog with
    | nil => exact .inr (.inl ⟨r, rfl, hp, by simp [engineStep, he, hp]⟩)
    | cons op rest => exact .inr (.inr ⟨r, op, rest, rfl, hp, by simp [engineStep, he, hp]⟩)

theorem engineStep_leaves (s : State) : EngineLeaves s (engineStep s) := by
  obtain ⟨-, h⟩ | ⟨r, -, -, h⟩ | ⟨r, op, rest, -, -, h⟩ := engineStep_cases s
  · rw [h]
    exact .rfl' s
  · rw [h]
    exact ⟨rfl, rfl, rfl, rfl, rfl, rfl, rfl, rfl, rfl⟩
  · rw [h]
    exact runLine_leaves _ _ _

/-! ## Through many engine steps -/

/-- What every engine step keeps, n engine steps keep. -/
theorem engineRun_keeps {P : State → Prop} (hp : ∀ s, P s → P (engineStep s)) (n : Nat) {s : State} (h : P s) :
    P (engineRun n s) := by
  induction n generalizing s with
  | zero => exact h
  | succ n ih =>
    rw [engineRun]
    split
    · exact ih (hp s h)
    · exact h

theorem runToEnd_keeps {P : State → Prop} (hp : ∀ s, P s → P (engineStep s)) {s : State} (h : P s) : P (runToEnd s) :=
  engineRun_keeps hp _ h

theorem runToEnd_leaves (s : State) : EngineLeaves s (runToEnd s) :=
  runToEnd_keeps (P := EngineLeaves s) (fun _ h => h.trans (engineStep_leaves _)) (.rfl' s)

/-- What every engine step keeps and the schedule does not matter to, the run up to the next host access keeps. -/
theorem advance_keeps {P : State → Prop} (hp : ∀ s, P s → P (engineStep s))
    (hs : ∀ (s : State) (es : List Event), P s → P { s with sched := es }) {s : State} (h : P s) : P (advance s) := by
  unfold advance
  generalize s.sched = es
  induction es generalizing s with
  | nil => exact runToEnd_keeps hp (hs s [] h)
  | cons e rest ih =>
    cases e with
    | engine => exact ih (hp s h)
    | _ => exact hs s _ h

/-! ## The program of a command -/

/-- The pseudocode a command runs. -/
def progOf : Instr → Params → Latch → List Op
  | .pulse, _, _ => [.pulseClock, .complete .plain]
  | .rdbit, _, _ => [.readBit (.value 0), .complete .value]
  | .wrbit _, _, l => [.writeBit l.bit, .complete .plain]
  | .setdir _, _, l => [.setDirection l.direction, .complete .plain]
  | .wrbits _, _, l => writeBits l.value l.count ++ [.complete .plain]
  | .rdbits _, _, l => readBits .value l.count ++ [.complete .value]
  | .parity, _, _ => [.parityOfWdata, .complete .value]
  | .connect, p, _ => connectProg p
  | .xferRd _, _, l => transact l.request .rd ++ [.complete .xferRd]
  | .xferWr _, _, l => transact l.request (.wr l.value) ++ [.complete .xferWr]
  | .dump, p, l => dumpProg p l

/-- The session state a command's acceptance enters. -/
def enterOf : Instr → Option SState
  | .connect => some .wake
  | _ => none

theorem exec_eq_issue (i : Instr) (s : State) : exec i s = issue i (enterOf i) (progOf i) s := by
  cases i <;> rfl

/-! ## The cases of a CMD write (R90) -/

theorem exec_busy (i : Instr) {s : State} (h : s.busy = true) : exec i s = .next (advance (raiseErrBusy s)) := by
  rw [exec_eq_issue]
  simp [issue, cmdWrite, h]

theorem exec_illFormed {i : Instr} {s : State} (h : s.engine = .idle) (hw : i.wellFormed = false) :
    exec i s = .next (advance (raiseErrCmd s)) := by
  rw [exec_eq_issue]
  simp [issue, cmdWrite, busy_of_idle h, hw]

/-- A command accepted, run to its end inside the write where it makes no cycle (10_state.md R29). -/
theorem exec_accepted {i : Instr} {s : State} (h : s.engine = .idle) (hw : i.wellFormed = true) :
    exec i s = .next (advance
      (if (progOf i s.params (latchOf i s)).all Op.cycleFree then runToEnd (accepted i (enterOf i) (progOf i) s)
        else accepted i (enterOf i) (progOf i) s)) := by
  rw [exec_eq_issue, issue, cmdWrite_idle h hw]

/-- What refusals, the acceptance and engine steps keep, exec keeps. -/
theorem exec_keeps {P : State → Prop} (hp : ∀ s, P s → P (engineStep s))
    (hs : ∀ (s : State) (es : List Event), P s → P { s with sched := es }) {i : Instr} {s : State}
    (hb : s.busy = true → P (raiseErrBusy s))
    (hc : s.engine = .idle → i.wellFormed = false → P (raiseErrCmd s))
    (ha : s.engine = .idle → i.wellFormed = true → P (accepted i (enterOf i) (progOf i) s)) :
    ∃ t, exec i s = .next t ∧ P t := by
  cases hbusy : s.busy with
  | true => exact ⟨_, exec_busy i hbusy, advance_keeps hp hs (hb hbusy)⟩
  | false =>
    have hi := (busy_eq_false_iff s).1 hbusy
    cases hw : i.wellFormed with
    | false => exact ⟨_, exec_illFormed hi hw, advance_keeps hp hs (hc hi hw)⟩
    | true =>
      refine ⟨_, exec_accepted hi hw, advance_keeps hp hs ?_⟩
      split
      · exact runToEnd_keeps hp (ha hi hw)
      · exact ha hi hw

/-! ## The events of a step -/

theorem step_nil {s : State} (h : s.sched = []) : step s = .next (advance s) := by
  rw [step, h]

theorem step_cons {s : State} {e : Event} {rest : List Event} (h : s.sched = e :: rest) :
    step s = stepEvent e { s with sched := rest } := by
  rw [step, h]

theorem step_read {s : State} {off n : Nat} {rest : List Event} (hr : s.inReset = false)
    (h : s.sched = .read off n :: rest) :
    step s = .next (advance { s with sched := rest, resp := hostRead { s with sched := rest } off n }) := by
  rw [step_cons h, stepEvent, if_neg (by simp [hr])]
  rfl

theorem step_write {s : State} {off n : Nat} {v : Word} {rest : List Event} (hr : s.inReset = false)
    (h : s.sched = .write off n v :: rest) :
    step s =
      match hostWrite { s with sched := rest } off n v with
      | .error => .next (advance (respond .error { s with sched := rest }))
      | .done s' => .next (advance (respond .written s'))
      | .command c => commandWrite c { s with sched := rest, resp := .written } := by
  rw [step_cons h, stepEvent, if_neg (by simp [hr])]
  rfl

theorem step_wait {s : State} {rest : List Event} (hr : s.inReset = false) (h : s.sched = .wait :: rest) :
    step s = .next (advance (respond (.data (statusWord (runToEnd { s with sched := rest })))
      (runToEnd { s with sched := rest }))) := by
  rw [step_cons h, stepEvent, if_neg (by simp [hr])]

theorem hostWrite_cmd (s : State) (c : Word) : hostWrite s offCmd 4 c = .command c := rfl

/-- A 32-bit CMD write is a command write of the word (R90). -/
theorem step_cmd {s : State} {c : Word} {rest : List Event} (hr : s.inReset = false)
    (h : s.sched = .write offCmd 4 c :: rest) : step s = commandWrite c { s with sched := rest, resp := .written } :=
  step_write hr h

/-- Where no register is (20_memory.md R61, R63). -/
theorem regRead_none (s : State) {off : Nat} (h : 0x030 ≤ off ∨ off % 4 ≠ 0) : regRead s off = none := by
  have hne : ∀ k, k < 0x030 → k % 4 = 0 → off ≠ k := by
    intro k h1 h2 h3
    omega
  unfold regRead offCmd offStatus offWdata offRdata offDlen offIdcode offAcks offDcount offCyccnt offPins offParam0 offParam1
  rw [if_neg (hne _ (by omega) (by omega)), if_neg (hne _ (by omega) (by omega)), if_neg (hne _ (by omega) (by omega)),
    if_neg (hne _ (by omega) (by omega)), if_neg (hne _ (by omega) (by omega)), if_neg (hne _ (by omega) (by omega)),
    if_neg (hne _ (by omega) (by omega)), if_neg (hne _ (by omega) (by omega)), if_neg (hne _ (by omega) (by omega)),
    if_neg (hne _ (by omega) (by omega)), if_neg (hne _ (by omega) (by omega)), if_neg (hne _ (by omega) (by omega))]

/-- The three cases of a host write (20_memory.md R61, R63). -/
theorem hostWrite_cases (s : State) (off n : Nat) (v : Word) :
    hostWrite s off n v = .error ∨ hostWrite s off n v = .done (regWrite off v s) ∨
      (off = offCmd ∧ n = 4 ∧ hostWrite s off n v = .command v) := by
  unfold hostWrite
  split
  · split
    · next h =>
      split
      · next h' => exact .inr (.inr ⟨h', h, rfl⟩)
      · exact .inr (.inl rfl)
    · exact .inl rfl
  · exact .inl rfl

/-- What every part of a step keeps, a step keeps. -/
theorem step_keeps {P : State → Prop} (hp : ∀ s, P s → P (engineStep s))
    (hs : ∀ (s : State) (es : List Event), P s → P { s with sched := es })
    (hr : ∀ (s : State) (b : BusResp), P s → P (respond b s))
    (hw : ∀ (s : State) (off : Nat) (v : Word), P s → P (regWrite off v s))
    (hb : ∀ s, P s → P (raiseErrBusy s)) (hc : ∀ s, P s → P (raiseErrCmd s))
    (ha : ∀ (i : Instr) (s : State), P s → s.inReset = false → s.engine = .idle → i.wellFormed = true →
      P (accepted i (enterOf i) (progOf i) s))
    (hreset : ∀ s, P s → P (assertReset s)) (hrelease : ∀ s, P s → P (releaseReset s))
    {s t : State} (h : P s) (hst : step s = .next t) : P t := by
  have adv : ∀ u, P u → P (advance u) := fun u hu => advance_keeps hp hs hu
  cases hsch : s.sched with
  | nil =>
    rw [step_nil hsch] at hst
    injection hst with hst
    exact hst ▸ adv s h
  | cons e rest =>
    have h' : P { s with sched := rest } := hs s rest h
    rw [step_cons hsch] at hst
    cases e with
    | engine =>
      injection hst with hst
      exact hst ▸ adv _ (hp _ h')
    | read off n =>
      rw [stepEvent] at hst
      split at hst
      · exact absurd hst (by simp)
      · injection hst with hst
        exact hst ▸ adv _ (hr _ _ h')
    | write off n v =>
      rw [stepEvent] at hst
      split at hst
      · exact absurd hst (by simp)
      · next hir =>
        obtain hw' | hw' | ⟨-, -, hw'⟩ := hostWrite_cases { s with sched := rest } off n v
        · rw [hw'] at hst
          injection hst with hst
          exact hst ▸ adv _ (hr _ _ h')
        · rw [hw'] at hst
          injection hst with hst
          exact hst ▸ adv _ (hr _ _ (hw _ _ _ h'))
        · rw [hw'] at hst
          dsimp only at hst
          have h'' := hr _ .written h'
          unfold commandWrite at hst
          split at hst
          · next i _ =>
            obtain ⟨u, hu, hpu⟩ := exec_keeps (i := i) hp hs (fun _ => hb _ h'') (fun _ _ => hc _ h'')
              (fun hi hwf => ha i _ h'' (by simpa using hir) hi hwf)
            rw [hu] at hst
            injection hst with hst
            exact hst ▸ hpu
          · injection hst with hst
            refine hst ▸ adv _ ?_
            unfold refuseWord
            split
            · exact hb _ h''
            · exact hc _ h''
    | wait =>
      rw [stepEvent] at hst
      split at hst
      · exact absurd hst (by simp)
      · injection hst with hst
        exact hst ▸ adv _ (hr _ _ (runToEnd_keeps hp h'))
    | resetAssert =>
      injection hst with hst
      exact hst ▸ adv _ (hreset _ h')
    | resetRelease =>
      injection hst with hst
      exact hst ▸ adv _ (hrelease _ h')

end Sys2Proof.Laws
end

