-- ==== Sys2Proof/Laws/Commands.lean ====
section
/-! SUPPORT. A command no host access falls into, from its acceptance to its completion step (spec/10_state.md R46, R47),
and what each completion leaves on a state whose engine is idle once the command is done. -/

namespace Sys2Proof.Laws

open Sys2Proof.Machine

/-! ## The operands back out of the latch (30_encoding.md R92, R94) -/

theorem latch_bit (v : Bool) (s : State) : (latchOf (.wrbit v) s).bit = v := by
  show bBit (encode (.wrbit v)) = v
  cases v <;> decide

theorem latch_direction (d : Dir) (s : State) : (latchOf (.setdir d) s).direction = d := by
  show Dir.ofBit (bBit (encode (.setdir d))) = d
  cases d <;> decide

theorem nField_encode_wrbits : ∀ n : BitVec 6, nField (encode (.wrbits n)) = n := by decide +kernel

theorem nField_encode_rdbits : ∀ n : BitVec 6, nField (encode (.rdbits n)) = n := by decide +kernel

theorem bField_encode_xferRd : ∀ r : Byte, bField (encode (.xferRd r)) = r := by decide +kernel

theorem bField_encode_xferWr : ∀ r : Byte, bField (encode (.xferWr r)) = r := by decide +kernel

theorem latch_count_wrbits (n : BitVec 6) (s : State) : (latchOf (.wrbits n) s).count = n.toNat :=
  congrArg BitVec.toNat (nField_encode_wrbits n)

theorem latch_count_rdbits (n : BitVec 6) (s : State) : (latchOf (.rdbits n) s).count = n.toNat :=
  congrArg BitVec.toNat (nField_encode_rdbits n)

theorem latch_request_xferRd (r : Byte) (s : State) : (latchOf (.xferRd r) s).request = r := bField_encode_xferRd r

theorem latch_request_xferWr (r : Byte) (s : State) : (latchOf (.xferWr r) s).request = r := bField_encode_xferWr r

@[simp] theorem latch_value (i : Instr) (s : State) : (latchOf i s).value = s.wdata := rfl

@[simp] theorem latch_byteCount (i : Instr) (s : State) : (latchOf i s).byteCount = s.dlen.toNat := rfl

/-! ## From acceptance to completion -/

/-- A well-formed command but CONNECT, run to its end. -/
theorem exec_quiet {i : Instr} {s : State} (hq : Quiet s) (hw : i.wellFormed = true) (hn : enterOf i = none) :
    exec i s = .next (runToEnd (resume ⟨latchOf i s, Shadow.start, progOf i s.params (latchOf i s)⟩ s)) := by
  rw [exec_eq_issue, hn, issue_quiet hq hw]
  rfl

/-- CONNECT, run to its end from WAKE (42_session.md R161). -/
theorem execConnect_quiet {s : State} (hq : Quiet s) :
    exec .connect s = .next (runToEnd (resume ⟨latchOf .connect s, Shadow.start, connectProg s.params⟩
      { s with sstate := .wake })) := by
  rw [exec_eq_issue, issue_quiet hq rfl]
  rfl

/-! ## The completions, the engine idle -/

theorem complete_plain (r : Running) {s : State} (h : s.engine = .idle) :
    complete .plain r s = { s with result := .none, recovered := false } := by
  cases s
  subst h
  rfl

theorem complete_value (r : Running) {s : State} (h : s.engine = .idle) :
    complete .value r s = { s with rdata := r.shadow.value, result := .none, recovered := false } := by
  cases s
  subst h
  rfl

theorem complete_xferRd (r : Running) {s : State} (h : s.engine = .idle) :
    complete .xferRd r s =
      { s with
        result := r.shadow.trans.outcome, recovered := r.shadow.trans.recovered
        rdata := if r.shadow.trans.ok then r.shadow.trans.data else s.rdata
        acks := packAcks r.shadow.trans } := by
  cases s
  subst h
  rfl

theorem complete_xferWr (r : Running) {s : State} (h : s.engine = .idle) :
    complete .xferWr r s =
      { s with
        result := r.shadow.trans.outcome, recovered := r.shadow.trans.recovered
        acks := packAcks r.shadow.trans } := by
  cases s
  subst h
  rfl

theorem complete_session (r : Running) {s : State} (h : s.engine = .idle) :
    complete .session r s =
      { s with
        recovered := false, acks := packAcks r.shadow.trans
        result := if r.shadow.trans.ok then .found else .notFound
        sstate := if r.shadow.trans.ok then .found else .notFound
        idcode := if r.shadow.trans.ok then r.shadow.trans.data else 0#32 } := by
  cases s
  subst h
  rfl

theorem complete_capExceeded (r : Running) {s : State} (h : s.engine = .idle) :
    complete .capExceeded r s = { s with result := .capExceeded, recovered := false, dcount := 0#32 } := by
  cases s
  subst h
  rfl

theorem complete_dumpDone (r : Running) {s : State} (h : s.engine = .idle) :
    complete .dumpDone r s =
      { s with
        result := .ok, recovered := r.shadow.recAny, acks := packAcks r.shadow.trans, dcount := r.latch.dlen } := by
  cases s
  subst h
  rfl

theorem complete_dumpStopped (r : Running) {s : State} (h : s.engine = .idle) :
    complete .dumpStopped r s =
      { s with
        result := .fail, recovered := r.shadow.recAny, acks := packAcks r.shadow.trans
        dcount := stoppedCount r.latch.byteCount r.shadow.words } := by
  cases s
  subst h
  rfl

end Sys2Proof.Laws
end

