-- ==== Sys2Proof/Laws/Decode.lean ====
section
/-! SUPPORT. The cases of the decoder (spec/30_encoding.md R91-R95). -/

namespace Sys2Proof.Laws

/-- The row test as an equation. -/
theorem fits_iff (r : OpRow) (c : Word) : r.fits c = true ↔ c &&& r.mask = r.value := by
  simp [OpRow.fits]

/-- One row of the decoder's table, taken or passed. -/
theorem row_cases {r : OpRow} {c : Word} {x y : Except IllegalWord Instr} {i : Instr}
    (h : (if r.fits c then x else y) = .ok i) : (c &&& r.mask = r.value ∧ x = .ok i) ∨ y = .ok i := by
  cases hf : r.fits c with
  | true => exact .inl ⟨(fits_iff r c).1 hf, by rwa [hf, if_pos rfl] at h⟩
  | false => exact .inr (by rwa [hf, if_neg Bool.false_ne_true] at h)

/-- The count check of WRBITS and RDBITS (R91). -/
theorem decodeCount_ok {mk : BitVec 6 → Instr} {n : BitVec 6} {i : Instr} (h : decodeCount mk n = .ok i) :
    countLegal n = true ∧ i = mk n := by
  unfold decodeCount at h
  cases hc : countLegal n with
  | true =>
    rw [hc, if_pos rfl] at h
    injection h with h
    exact ⟨rfl, h.symm⟩
  | false =>
    rw [hc, if_neg Bool.false_ne_true] at h
    nomatch h

theorem ok_inj {i j : Instr} (h : (Except.ok i : Except IllegalWord Instr) = .ok j) : j = i := by
  injection h with h
  exact h.symm

/-- Every way a word decodes: the row it fits and the command it is. -/
theorem decode_ok_cases {c : Word} {i : Instr} (h : decode c = .ok i) :
    (c &&& rowPulse.mask = rowPulse.value ∧ i = .pulse) ∨
    (c &&& rowRdbit.mask = rowRdbit.value ∧ i = .rdbit) ∨
    (c &&& rowWrbit.mask = rowWrbit.value ∧ i = .wrbit (bBit c)) ∨
    (c &&& rowSetdir.mask = rowSetdir.value ∧ i = .setdir (Dir.ofBit (bBit c))) ∨
    (c &&& rowWrbits.mask = rowWrbits.value ∧ countLegal (nField c) = true ∧ i = .wrbits (nField c)) ∨
    (c &&& rowRdbits.mask = rowRdbits.value ∧ countLegal (nField c) = true ∧ i = .rdbits (nField c)) ∨
    (c &&& rowParity.mask = rowParity.value ∧ i = .parity) ∨
    (c &&& rowConnect.mask = rowConnect.value ∧ i = .connect) ∨
    (c &&& rowXferRd.mask = rowXferRd.value ∧ i = .xferRd (bField c)) ∨
    (c &&& rowXferWr.mask = rowXferWr.value ∧ i = .xferWr (bField c)) ∨
    (c &&& rowDump.mask = rowDump.value ∧ i = .dump) := by
  unfold decode at h
  obtain ⟨hf, h⟩ | h := row_cases h
  · exact .inl ⟨hf, ok_inj h⟩
  refine .inr ?_
  obtain ⟨hf, h⟩ | h := row_cases h
  · exact .inl ⟨hf, ok_inj h⟩
  refine .inr ?_
  obtain ⟨hf, h⟩ | h := row_cases h
  · exact .inl ⟨hf, ok_inj h⟩
  refine .inr ?_
  obtain ⟨hf, h⟩ | h := row_cases h
  · exact .inl ⟨hf, ok_inj h⟩
  refine .inr ?_
  obtain ⟨hf, h⟩ | h := row_cases h
  · exact .inl ⟨hf, decodeCount_ok h⟩
  refine .inr ?_
  obtain ⟨hf, h⟩ | h := row_cases h
  · exact .inl ⟨hf, decodeCount_ok h⟩
  refine .inr ?_
  obtain ⟨hf, h⟩ | h := row_cases h
  · exact .inl ⟨hf, ok_inj h⟩
  refine .inr ?_
  obtain ⟨hf, h⟩ | h := row_cases h
  · exact .inl ⟨hf, ok_inj h⟩
  refine .inr ?_
  obtain ⟨hf, h⟩ | h := row_cases h
  · exact .inl ⟨hf, ok_inj h⟩
  refine .inr ?_
  obtain ⟨hf, h⟩ | h := row_cases h
  · exact .inl ⟨hf, ok_inj h⟩
  refine .inr ?_
  obtain ⟨hf, h⟩ | h := row_cases h
  · exact ⟨hf, ok_inj h⟩
  · cases hb : opcodeMap.any (fun r => r.value == c &&& 0x000000FF#32) with
    | true => rw [hb, if_pos rfl] at h; nomatch h
    | false => rw [hb, if_neg Bool.false_ne_true] at h; nomatch h

end Sys2Proof.Laws
end

