-- ==== Sys2Proof/Laws/Memory.lean ====
section
/-! SUPPORT. The laws of BUF: a read after a write, every other address left alone, the canonical form kept. -/

namespace Sys2Proof.Laws

open Sys2Proof.Machine

theorem read_write_same (m : Memory) (a : Nat) (b : Byte) : (m.write a b).read a = some b := by
  induction m with
  | nil => simp [Memory.write, Memory.read]
  | cons c m ih =>
    obtain ⟨a', b'⟩ := c
    simp only [Memory.write]
    split
    · simp [Memory.read]
    · split
      · simp [Memory.read]
      · rename_i h
        simp [Memory.read, h, ih]

theorem read_write_other (m : Memory) (a a₁ : Nat) (b : Byte) (h : a₁ ≠ a) : (m.write a b).read a₁ = m.read a₁ := by
  induction m with
  | nil => simp [Memory.write, Memory.read, h]
  | cons c m ih =>
    obtain ⟨a', b'⟩ := c
    simp only [Memory.write]
    split
    · simp [Memory.read, h]
    · split
      · rename_i h'
        subst h'
        simp [Memory.read, h]
      · simp [Memory.read, ih]

/-- Reading after a write, in one equation. -/
theorem read_write (m : Memory) (a a₁ : Nat) (b : Byte) :
    (m.write a b).read a₁ = if a₁ = a then some b else m.read a₁ := by
  split
  · next h => rw [h, read_write_same]
  · next h => exact read_write_other m a a₁ b h

theorem mem_write (m : Memory) (a : Nat) (b : Byte) (c : Host.Cell) (h : c ∈ m.write a b) : c = (a, b) ∨ c ∈ m := by
  induction m with
  | nil => simpa [Memory.write] using h
  | cons d m ih =>
    obtain ⟨a', b'⟩ := d
    simp only [Memory.write] at h
    split at h
    · simpa using h
    · split at h
      · rcases List.mem_cons.1 h with h | h
        · exact .inl h
        · exact .inr (List.mem_cons_of_mem _ h)
      · rcases List.mem_cons.1 h with h | h
        · exact .inr (h ▸ List.mem_cons_self)
        · exact (ih h).imp id (List.mem_cons_of_mem _)

/-- A write keeps the canonical form. -/
theorem write_wf (m : Memory) (a : Nat) (b : Byte) (h : m.wf) : (m.write a b).wf := by
  induction m with
  | nil => simp [Memory.write, Memory.wf]
  | cons c m ih =>
    obtain ⟨a', b'⟩ := c
    obtain ⟨h₁, h₂⟩ := List.pairwise_cons.1 h
    simp only [Memory.write]
    split
    · next ha =>
      refine List.pairwise_cons.2 ⟨fun c hc => ?_, h⟩
      rcases List.mem_cons.1 hc with rfl | hc
      · exact ha
      · exact Nat.lt_trans ha (h₁ c hc)
    · split
      · next ha =>
        subst ha
        exact List.pairwise_cons.2 ⟨h₁, h₂⟩
      · next h₃ h₄ =>
        refine List.pairwise_cons.2 ⟨fun c hc => ?_, ih h₂⟩
        rcases mem_write m a b c hc with rfl | hc
        · show a' < a
          omega
        · exact h₁ c hc

/-- StoreWordBE keeps the canonical form (spec/20_memory.md R68). -/
theorem bufAfterStore_wf (m : Memory) (k : Nat) (w : Word) (h : m.wf) : (bufAfterStore m k w).wf :=
  write_wf _ _ _ (write_wf _ _ _ (write_wf _ _ _ (write_wf _ _ _ h)))

/-- The cells StoreWordBE can leave. -/
theorem mem_bufAfterStore (m : Memory) (k : Nat) (w : Word) (c : Host.Cell) (h : c ∈ bufAfterStore m k w) :
    (bufBase + 4 * k ≤ c.1 ∧ c.1 < bufBase + (4 * k + 4)) ∨ c ∈ m := by
  unfold bufAfterStore at h
  rcases mem_write _ _ _ _ h with rfl | h
  · exact .inl ⟨by simp only; omega, by simp only; omega⟩
  rcases mem_write _ _ _ _ h with rfl | h
  · exact .inl ⟨by simp only; omega, by simp only; omega⟩
  rcases mem_write _ _ _ _ h with rfl | h
  · exact .inl ⟨by simp only; omega, by simp only; omega⟩
  rcases mem_write _ _ _ _ h with rfl | h
  · exact .inl ⟨by simp only; omega, by simp only; omega⟩
  exact .inr h

/-- What StoreWordBE does, read one byte at a time (R68). -/
theorem read_bufAfterStore (m : Memory) (k : Nat) (w : Word) (a : Nat) :
    (bufAfterStore m k w).read a =
      if a = bufBase + (4 * k + 3) then some (w.extractLsb' 0 8)
      else if a = bufBase + (4 * k + 2) then some (w.extractLsb' 8 8)
      else if a = bufBase + (4 * k + 1) then some (w.extractLsb' 16 8)
      else if a = bufBase + (4 * k + 0) then some (w.extractLsb' 24 8)
      else m.read a := by
  unfold bufAfterStore
  simp only [read_write]

/-- StoreWordBE leaves every other byte alone. -/
theorem read_bufAfterStore_other (m : Memory) (k : Nat) (w : Word) (a : Nat)
    (h : a < bufBase + 4 * k ∨ bufBase + (4 * k + 4) ≤ a) : (bufAfterStore m k w).read a = m.read a := by
  rw [read_bufAfterStore, if_neg (by omega), if_neg (by omega), if_neg (by omega), if_neg (by omega)]

end Sys2Proof.Laws
end

