-- ==== Sys2Proof/Laws/PerInstr.lean ====
section
/-! SUPPORT. A law of every command, one lemma a constructor: the word the encoder gives fits the command's own row of the
opcode map, and no other (spec/30_encoding.md R91, R93). -/

namespace Sys2Proof.Laws

/-- The row of the opcode map a command belongs to (R93). -/
def rowOf : Instr → OpRow
  | .pulse => rowPulse
  | .rdbit => rowRdbit
  | .wrbit _ => rowWrbit
  | .setdir _ => rowSetdir
  | .wrbits _ => rowWrbits
  | .rdbits _ => rowRdbits
  | .parity => rowParity
  | .connect => rowConnect
  | .xferRd _ => rowXferRd
  | .xferWr _ => rowXferWr
  | .dump => rowDump

namespace EncodesRow

-- One theorem at a time: elaborated side by side they take a thread, with its stack, each.
set_option Elab.async false

/-- The word of i fits row r of the opcode map exactly when r is i's row, whatever the operands. -/
def Statement (i : Instr) : Prop := ∀ r ∈ opcodeMap, r.fits (encode i) = decide (r = rowOf i)

theorem pulse : Statement .pulse := by
  unfold Statement
  decide +kernel

theorem rdbit : Statement .rdbit := by
  unfold Statement
  decide +kernel

theorem wrbit : ∀ v : Bool, Statement (.wrbit v) := by
  unfold Statement
  decide +kernel

theorem setdir : ∀ d : Dir, Statement (.setdir d) := by
  intro d
  unfold Statement
  cases d <;> decide +kernel

theorem wrbits : ∀ n : BitVec 6, Statement (.wrbits n) := by
  unfold Statement
  decide +kernel

theorem rdbits : ∀ n : BitVec 6, Statement (.rdbits n) := by
  unfold Statement
  decide +kernel

theorem parity : Statement .parity := by
  unfold Statement
  decide +kernel

theorem connect : Statement .connect := by
  unfold Statement
  decide +kernel

theorem xferRd : ∀ r : Byte, Statement (.xferRd r) := by
  unfold Statement
  decide +kernel

theorem xferWr : ∀ r : Byte, Statement (.xferWr r) := by
  unfold Statement
  decide +kernel

theorem dump : Statement .dump := by
  unfold Statement
  decide +kernel

end EncodesRow

end Sys2Proof.Laws
end

