-- ==== Sys2Proof/Tests/Slice0.lean ====
section
/-! SUPPORT. Tests: the WellFormed smoke, words written out from the encoding tables, one-step tests whose expected results
are the vectors of spec/95_test_vectors.md, and for every statement with hypotheses a state that meets them. -/

namespace Sys2Proof.Tests

open Sys2Proof.Machine

-- One theorem at a time: elaborated side by side they take a thread, with its stack, each.
set_option Elab.async false

/-! ## Helpers -/

/-- The instance of the vectors: DUMP_CAPACITY 64, the defaults of R6. -/
def instance64 : Params := { base := 0x40000000, dumpCapacity := 64, lineResetHigh := 62, lineResetIdle := 2, wrTrn := 1 }

/-- Reset, the target's bits given. -/
def start (draws : List Bool) : State := { State.reset with params := instance64, draws := draws }

/-- The same with the line driven and WDATA given. -/
def startOut (wdata : Word) : State := { start [] with dir := .out, wdata := wdata }

/-- The low n bits of v, LSB first. -/
def bits (v n : Nat) : List Bool := (List.range n).map fun i => v.testBit i

/-- ACK ok, ACK fault and ACK 111 as draws. -/
def ackOk : List Bool := [true, false, false]
/-- ACK fault. -/
def ackFault : List Bool := [false, false, true]
/-- ACK 111. -/
def ackOnes : List Bool := [true, true, true]

/-- A field of the next state, if there is one. -/
def after {α : Type} (o : Host.Outcome State Fault Refusal) (f : State → α) : Option α :=
  match o with
  | .next t => some (f t)
  | .fault _ => none
  | .refused _ => none

/-- One step that writes a command word to CMD. -/
def cmdStep (c : Word) (s : State) : Host.Outcome State Fault Refusal := step { s with sched := .write offCmd 4 c :: s.sched }

/-- A block in the middle of a WRBITS 8 of 0xA5. -/
def midWrbits : State :=
  { startOut 0xA5#32 with
    engine := .running
      { latch := { cmd := 0x00080005#32, wdata := 0xA5#32, dlen := 0#32 }
        shadow := Shadow.start
        prog := writeBits 0xA5#32 8 ++ [.complete .plain] } }

/-- A target that always answers ACK_OK, serving a DUMP of two reads (92_eei_decisions.md D49). -/
def okDraws : List Bool :=
  ackOk ++ ackOk ++ ackOk ++ (ackOk ++ bits 0xCAFEF00D 32 ++ [false]) ++ (ackOk ++ bits 0x11223344 32 ++ [false])

/-- Before a DUMP of n bytes from 0x20000000. -/
def dumpStart (n : Word) (draws : List Bool) : State := { start draws with wdata := 0x20000000#32, dlen := n }

/-! ## WellFormed: an ill-formed term for each check (spec/30_encoding.md R91) -/

theorem test_illFormed_wrbits : (Instr.wrbits 0#6).wellFormed = false ∧ (Instr.wrbits 33#6).wellFormed = false ∧
    (Instr.wrbits 63#6).wellFormed = false ∧ (Instr.wrbits 1#6).wellFormed = true ∧
    (Instr.wrbits 32#6).wellFormed = true := by decide

theorem test_illFormed_rdbits : (Instr.rdbits 0#6).wellFormed = false ∧ (Instr.rdbits 33#6).wellFormed = false ∧
    (Instr.rdbits 63#6).wellFormed = false ∧ (Instr.rdbits 1#6).wellFormed = true ∧
    (Instr.rdbits 32#6).wellFormed = true := by decide

/-! ## Decode: the table of 95_test_vectors.md 2.1, each word written out as RSV, N, B, OP (R92) -/

/-- A word from its fields. -/
def word (rsv : BitVec 10) (n : BitVec 6) (b : BitVec 8) (op : BitVec 8) : Word := rsv ++ n ++ b ++ op

theorem test_decode_bitIo :
    decode (word 0b0000000000#10 0b000000#6 0b00000000#8 0b00000001#8) = .ok .pulse ∧
    decode (word 0b0000000000#10 0b000000#6 0b00000000#8 0b00000010#8) = .ok .rdbit ∧
    decode (word 0b0000000000#10 0b000000#6 0b00000001#8 0b00000011#8) = .ok (.wrbit true) ∧
    decode (word 0b0000000000#10 0b000000#6 0b00000000#8 0b00000011#8) = .ok (.wrbit false) ∧
    decode (word 0b0000000000#10 0b000000#6 0b00000001#8 0b00000100#8) = .ok (.setdir .out) ∧
    decode (word 0b0000000000#10 0b000000#6 0b00000000#8 0b00000100#8) = .ok (.setdir .inp) := by decide

theorem test_decode_codec :
    decode (word 0b0000000000#10 0b100000#6 0b00000000#8 0b00000101#8) = .ok (.wrbits 32#6) ∧
    decode (word 0b0000000000#10 0b000001#6 0b00000000#8 0b00000101#8) = .ok (.wrbits 1#6) ∧
    decode (word 0b0000000000#10 0b100000#6 0b00000000#8 0b00000110#8) = .ok (.rdbits 32#6) ∧
    decode (word 0b0000000000#10 0b000000#6 0b00000000#8 0b00000111#8) = .ok .parity := by decide

theorem test_decode_engines :
    decode (word 0b0000000000#10 0b000000#6 0b00000000#8 0b00010000#8) = .ok .connect ∧
    decode (word 0b0000000000#10 0b000000#6 0b10011111#8 0b00100000#8) = .ok (.xferRd 0x9F#8) ∧
    decode (word 0b0000000000#10 0b000000#6 0b11111111#8 0b00100000#8) = .ok (.xferRd 0xFF#8) ∧
    decode (word 0b0000000000#10 0b000000#6 0b10001011#8 0b00100001#8) = .ok (.xferWr 0x8B#8) ∧
    decode (word 0b0000000000#10 0b000000#6 0b00000000#8 0b00110000#8) = .ok .dump := by decide

theorem test_decode_unusedField :
    decode 0x00000101#32 = .error .unusedFieldSet ∧ decode 0x00010001#32 = .error .unusedFieldSet ∧
    decode 0x00000203#32 = .error .unusedFieldSet ∧ decode 0x00000204#32 = .error .unusedFieldSet ∧
    decode 0x00400005#32 = .error .unusedFieldSet ∧ decode 0x00000107#32 = .error .unusedFieldSet ∧
    decode 0x80000010#32 = .error .unusedFieldSet ∧ decode 0x00010020#32 = .error .unusedFieldSet := by decide

theorem test_decode_countAndReserved :
    decode 0x00000005#32 = .error .countOutOfRange ∧ decode 0x00210005#32 = .error .countOutOfRange ∧
    decode 0x00000006#32 = .error .countOutOfRange ∧ decode 0x003F0006#32 = .error .countOutOfRange ∧
    decode 0x00000008#32 = .error .reservedOpcode ∧ decode 0x00000031#32 = .error .reservedOpcode ∧
    decode 0x00000000#32 = .error .reservedOpcode ∧ decode 0x000000FF#32 = .error .reservedOpcode := by decide

theorem test_decodeTableWord : decodeTableWord 32 0x00008B21 = some (.xferWr 0x8B#8) ∧
    decodeTableWord 32 0x00000008 = none := by decide

/-- The next step runs the placed word. -/
theorem test_withFetchWord :
    after (step (State.reset.withFetchWord 32 0x00000103)) (fun t => (pinsWord t, t.cyccnt)) = some (0x5#32, 1#32) := by
  decide +kernel

/-- A word refused while idle leaves STATUS at 0x2; while busy it raises ErrBusy only (2.1). -/
theorem test_refused_words :
    after (cmdStep 0x000000FF#32 (start [])) (fun t => (statusWord t, t.wire)) = some (0x2#32, []) ∧
    after (step { midWrbits with sched := [.write offCmd 4 0x000000FF#32, .read offStatus 4] })
      (fun t => (t.errCmd, t.errBusy, t.busy)) = some (false, true, true) := by decide +kernel

/-! ## Commands, one step each: 95_test_vectors.md 2.3 to 2.7 -/

theorem test_pulse : after (cmdStep 0x00000001#32 (start [])) (fun t => (t.wire, pinsWord t, t.cyccnt)) =
    some ([wireZ], 0x1#32, 1#32) := by decide +kernel

theorem test_rdbit_driving : after (cmdStep 0x00000002#32 { start [true] with dir := .out, swdioO := true })
    (fun t => (t.wire, t.rdata)) = some ([{ drv := some true, smp := some true }], 1#32) := by decide +kernel

theorem test_rdbit_zero : after (cmdStep 0x00000002#32 { start [false] with rdata := 7#32 })
    (fun t => (t.wire, t.rdata)) = some ([wireR false], 0#32) := by decide +kernel

theorem test_wrbit_released : after (cmdStep 0x00000103#32 (start [])) (fun t => (t.wire, pinsWord t)) =
    some ([wireZ], 0x5#32) := by decide +kernel

theorem test_wrbit_driven : after (cmdStep 0x00000003#32 { start [] with dir := .out, swdioO := true })
    (fun t => (t.wire, pinsWord t)) = some ([wireW false], 0x3#32) := by decide +kernel

theorem test_setdir_out : after (cmdStep 0x00000104#32 { start [] with swdioO := true })
    (fun t => (t.wire, pinsWord t, t.busy)) = some ([], 0x7#32, false) := by decide +kernel

theorem test_setdir_in : after (cmdStep 0x00000004#32 { start [] with dir := .out, swdioO := true })
    (fun t => (t.wire, pinsWord t)) = some ([], 0x5#32) := by decide +kernel

theorem test_wrbits_lsb_first : after (cmdStep 0x00080005#32 (startOut 0xA5#32)) (fun t => (t.wire, t.swdioO)) =
    some ([wireW true, wireW false, wireW true, wireW false, wireW false, wireW true, wireW false, wireW true], true) := by
  decide +kernel

theorem test_wrbits_upper_ignored : after (cmdStep 0x00040005#32 (startOut 0xFFFFFFF5#32)) (fun t => t.wire) =
    some [wireW true, wireW false, wireW true, wireW false] := by decide +kernel

theorem test_rdbits_three : after (cmdStep 0x00030006#32 { start ackFault with rdata := 0xFFFFFFFF#32 })
    (fun t => (t.rdata, t.cyccnt)) = some (4#32, 3#32) := by decide +kernel

theorem test_rdbits_word : after (cmdStep 0x00200006#32 (start (bits 0x12345678 32))) (fun t => (t.rdata, t.draws)) =
    some (0x12345678#32, []) := by decide +kernel

theorem test_parity_odd : after (cmdStep 0x00000007#32 { start [] with wdata := 0x12345678#32 })
    (fun t => (t.rdata, t.cyccnt)) = some (1#32, 0#32) := by decide +kernel

theorem test_parity_even : after (cmdStep 0x00000007#32 { start [] with wdata := 0xDEADBEEF#32, rdata := 1#32 })
    (fun t => (t.rdata, t.busy)) = some (0#32, false) := by decide +kernel

theorem test_connect_found : after (cmdStep 0x00000010#32 (start (ackOk ++ bits 0x0BC12477 32 ++ [true])))
    (fun t => (statusWord t, t.idcode, t.acks, pinsWord t, t.cyccnt)) =
    some (0x630#32, 0x0BC12477#32, 0x601#32, 0x3#32, 333#32) := by decide +kernel

theorem test_connect_notFound : after (cmdStep 0x00000010#32 { start ackOnes with idcode := 5#32 })
    (fun t => (statusWord t, t.idcode, t.acks, pinsWord t, t.cyccnt)) =
    some (0x740#32, 0#32, 7#32, 0x7#32, 297#32) := by decide +kernel

theorem test_xferRd_recovers :
    after (cmdStep 0x00009F20#32 (start (ackFault ++ ackOk ++ ackOk ++ bits 0xDEADBEEF 32 ++ [false])))
      (fun t => (statusWord t, t.rdata, t.acks, t.cyccnt)) = some (0x18#32, 0xDEADBEEF#32, 0x4C#32, 112#32) := by
  decide +kernel

theorem test_xferRd_fails : after (cmdStep 0x00009F20#32 { start (ackFault ++ ackOk ++ ackFault) with rdata := 9#32 })
    (fun t => (statusWord t, t.rdata, t.acks, pinsWord t, t.cyccnt)) =
    some (0x28#32, 9#32, 0x10C#32, 0x7#32, 76#32) := by decide +kernel

theorem test_xferWr_ok : after (cmdStep 0x00008B21#32 { start ackOk with wdata := 0x20000000#32 })
    (fun t => (statusWord t, t.acks, pinsWord t, t.cyccnt)) = some (0x10#32, 1#32, 0x3#32, 50#32) := by decide +kernel

theorem test_xferWr_recovers :
    after (cmdStep 0x00008B21#32 { start (ackFault ++ ackOk ++ ackOk) with wdata := 0x20000000#32 })
      (fun t => (statusWord t, t.acks, t.cyccnt)) = some (0x18#32, 0x4C#32, 113#32) := by decide +kernel

theorem test_dump_capacity : after (cmdStep 0x00000030#32 (dumpStart 64#32 [])) (fun t => (statusWord t, t.cyccnt, t.buf)) =
    some (0x50#32, 0#32, []) := by decide +kernel

theorem test_dump_oneWord : after (cmdStep 0x00000030#32 (dumpStart 3#32 okDraws))
    (fun t => (statusWord t, t.dcount, t.cyccnt, t.buf)) =
    some (0x10#32, 3#32, 248#32, [(0x1000, 0x11#8), (0x1001, 0x22#8), (0x1002, 0x33#8), (0x1003, 0x44#8)]) := by
  decide +kernel

/-- The operands are latched at acceptance (10_state.md R46, the last vector of 2.4). -/
theorem test_operand_latch :
    after (step { midWrbits with sched := [.write offWdata 4 0xFF#32] }) (fun t => (t.wire.length, t.swdioO, t.wdata)) =
    some (8, true, 0xFF#32) := by decide +kernel

/-! ## The host window: 95_test_vectors.md 2.2 -/

/-- BUF after program P2. -/
def buf12 : State := { start [] with
  buf := [(0x1000, 0x11#8), (0x1001, 0x22#8), (0x1002, 0x33#8), (0x1003, 0x44#8), (0x1004, 0x55#8), (0x1005, 0x66#8),
    (0x1006, 0x77#8), (0x1007, 0x88#8)] }

theorem test_buf_reads : hostRead buf12 0x1003 1 = .data 0x44#32 ∧ hostRead buf12 0x1000 4 = .data 0x44332211#32 ∧
    hostRead buf12 0x1004 4 = .data 0x88776655#32 := by decide +kernel

theorem test_bus_errors : hostRead buf12 0x1002 4 = .error ∧ hostRead buf12 0x1000 2 = .error ∧
    hostRead buf12 0x1040 1 = .error ∧ hostRead buf12 0x030 4 = .error ∧ hostRead buf12 0xFFC 4 = .error ∧
    hostRead buf12 0x004 2 = .error ∧ hostRead buf12 0x006 4 = .error ∧ hostWrite buf12 0x1000 1 0#32 = .error ∧
    hostWrite buf12 0x000 1 0x10#32 = .error := by decide +kernel

theorem test_params_read : hostRead buf12 0x02C 4 = .data 0x0001023E#32 ∧ hostRead buf12 0x028 4 = .data 0x40#32 ∧
    hostRead buf12 0x000 4 = .data 0#32 := by decide +kernel

/-- Asserting reset in mid-command drops it (70_reset_and_hazards.md R271). -/
theorem test_reset_midCommand : after (step { midWrbits with sched := [.engine, .resetAssert] })
    (fun t => (t.wire.length, t.busy)) = some (1, true) ∧
    after (step { midWrbits with sched := [.resetAssert] }) (fun t => (t.wire, t.busy, t.wdata, t.dir)) =
      some ([], false, 0#32, .inp) := by decide +kernel

theorem test_resetMemory : State.reset.buf.wf := by decide

/-! ## Witnesses: a state that meets all the hypotheses of each statement -/

theorem test_witness_quiet : Quiet (start []) ∧ drawAt (start [true]) 0 = true := ⟨⟨rfl, rfl⟩, rfl⟩

theorem test_witness_DecodeOfEncode : (Instr.wrbits 32#6).wellFormed = true := by decide

theorem test_witness_EncodeOfDecode : decode 0x00200005#32 = .ok (.wrbits 32#6) := by decide

theorem test_witness_StepRunsDecodedCommand :
    ∃ s : State, s.inReset = false ∧ s.sched = .write offCmd 4 0x00000010#32 :: [] ∧ decode 0x00000010#32 = .ok .connect :=
  ⟨{ start [] with sched := [.write offCmd 4 0x00000010#32] }, rfl, rfl, by decide⟩

theorem test_witness_BusyWriteSetsErrBusyOnly :
    ∃ s : State, s.busy = true ∧ s.inReset = false ∧ s.sched = .write offCmd 4 0x00000001#32 :: [] :=
  ⟨{ midWrbits with sched := [.write offCmd 4 0x00000001#32] }, rfl, rfl, rfl⟩

theorem test_witness_IllegalWordSetsErrCmdOnly :
    ∃ s : State, s.busy = false ∧ s.inReset = false ∧ s.sched = .write offCmd 4 0x00210005#32 :: [] ∧
      (¬ ∃ r ∈ opcodeMap, 0x00210005#32 &&& r.mask = r.value ∧
        (r = rowWrbits ∨ r = rowRdbits → 1 ≤ (nField 0x00210005#32).toNat ∧ (nField 0x00210005#32).toNat ≤ 32)) :=
  ⟨{ start [] with sched := [.write offCmd 4 0x00210005#32] }, rfl, rfl, rfl, by decide +kernel⟩

/-- For DUMP at the last byte count below the capacity, and for CONNECT. -/
theorem test_witness_AcceptanceLatchesOperands :
    ∃ s : State, Instr.dump.wellFormed = true ∧ Instr.connect.wellFormed = true ∧ s.engine = .idle ∧
      s.sched = .read 0x004 4 :: [] ∧ Instr.dump ≠ .parity ∧ (∀ d, Instr.dump ≠ .setdir d) ∧
      s.dlen.toNat < s.params.dumpCapacity :=
  ⟨{ dumpStart 63#32 [] with sched := [.read 0x004 4] }, rfl, rfl, rfl, rfl, by simp, by simp, by decide⟩

theorem test_witness_ResultsHeldUntilCompletion : (engineStep midWrbits).busy = true := by decide +kernel

theorem test_witness_EveryCommandEnds : Instr.dump.wellFormed = true ∧ Quiet (dumpStart 63#32 []) := ⟨rfl, rfl, rfl⟩

theorem test_witness_IdleEngineDoesNothing : (start []).engine = .idle ∧ (start []).sched = [] := ⟨rfl, rfl⟩

theorem test_witness_WrbitsSendsLowBitsFirst :
    1 ≤ (1#6).toNat ∧ (1#6).toNat ≤ 32 ∧ 1 ≤ (32#6).toNat ∧ (32#6).toNat ≤ 32 ∧ Quiet (startOut 0xA5#32) :=
  ⟨by decide, by decide, by decide, by decide, rfl, rfl⟩

/-- One bit and 32 bits. -/
theorem test_witness_RdbitsAssemblesLsbFirst :
    (1 ≤ (1#6).toNat ∧ (1#6).toNat ≤ 32 ∧ Quiet (start [true]) ∧ DrawsAre (start [true]) 0 (1#32) (1#6).toNat ∧
      ∀ i, (1#6).toNat ≤ i → (1#32).getLsbD i = false) ∧
    (1 ≤ (32#6).toNat ∧ (32#6).toNat ≤ 32 ∧ Quiet (start (bits 0x80000000 32)) ∧
      DrawsAre (start (bits 0x80000000 32)) 0 (0x80000000#32) (32#6).toNat ∧
      ∀ i, (32#6).toNat ≤ i → (0x80000000#32).getLsbD i = false) := by
  refine ⟨⟨by decide, by decide, ⟨rfl, rfl⟩, by unfold DrawsAre; decide +kernel, ?_⟩,
    ⟨by decide, by decide, ⟨rfl, rfl⟩, by unfold DrawsAre; decide +kernel, ?_⟩⟩
  · intro i hi
    have h : 1 ≤ i := hi
    by_cases hlt : i < 32
    · revert h
      clear hi
      revert i
      decide
    · exact BitVec.getLsbD_of_ge _ _ (by omega)
  · intro i hi
    exact BitVec.getLsbD_of_ge _ _ hi

theorem test_witness_LoopbackRoundTrip :
    ∃ s : State, 1 ≤ (6#6).toNat ∧ (6#6).toNat ≤ 32 ∧ Quiet s ∧ s.dir = .out ∧
      ∀ i, i < (6#6).toNat → drawAt s i = s.wdata.getLsbD i :=
  ⟨{ startOut 0x2D#32 with draws := bits 0x2D 6 }, by decide, by decide, ⟨rfl, rfl⟩, rfl, by decide +kernel⟩

theorem test_witness_ConnectFindsDevice :
    ∃ s : State, Quiet s ∧ DrawsAre s 0 Config.ackOk 3 ∧ DrawsAre s 3 (0x0BC12477#32) 32 ∧ drawAt s 35 = true :=
  ⟨start (ackOk ++ bits 0x0BC12477 32 ++ [true]), ⟨rfl, rfl⟩, by unfold DrawsAre; decide +kernel,
    by unfold DrawsAre; decide +kernel, by decide +kernel⟩

theorem test_witness_ConnectFindsNothing :
    Quiet (start ackOnes) ∧ DrawsAre (start ackOnes) 0 (7#3) 3 ∧ (7#3 : Ack) ≠ Config.ackOk :=
  ⟨⟨rfl, rfl⟩, by unfold DrawsAre; decide +kernel, by decide⟩

/-- Idle in every resting session state, and a command that leaves the session alone. -/
theorem test_witness_sessionInvariant :
    SessionInv (start []) ∧ SessionInv { start [] with sstate := .found } ∧
      SessionInv { start [] with sstate := .notFound } ∧ SessionInv midWrbits :=
  ⟨rfl, rfl, rfl, .inr ⟨rfl, by decide +kernel⟩⟩

/-- In the middle of CONNECT. -/
theorem test_witness_sessionUnderWay :
    SessionInv { start [] with
      sstate := .idRequest
      engine := .running
        { latch := { cmd := 0x10#32, wdata := 0#32, dlen := 0#32 }
          shadow := Shadow.start
          prog := [.testIdAck] ++ [.complete .session] } } :=
  .inl ⟨rfl, [.testIdAck], rfl, by decide, rfl⟩

theorem test_witness_XferRdFirstAckOk :
    ∃ s : State, Quiet s ∧ DrawsAre s 0 Config.ackOk 3 ∧ DrawsAre s 3 (0x12345678#32) 32 ∧ drawAt s 35 = true :=
  ⟨start (ackOk ++ bits 0x12345678 32 ++ [true]), ⟨rfl, rfl⟩, by unfold DrawsAre; decide +kernel,
    by unfold DrawsAre; decide +kernel, by decide +kernel⟩

/-- Also the witness of XferWrRecovers. -/
theorem test_witness_XferRdRecovers :
    ∃ s : State, Quiet s ∧ DrawsAre s 0 (4#3) 3 ∧ (4#3 : Ack) ≠ Config.ackOk ∧ DrawsAre s 3 (7#3) 3 ∧
      DrawsAre s 6 Config.ackOk 3 ∧ DrawsAre s 9 (0xDEADBEEF#32) 32 ∧ drawAt s 41 = false :=
  ⟨start (ackFault ++ ackOnes ++ ackOk ++ bits 0xDEADBEEF 32 ++ [false]), ⟨rfl, rfl⟩, by unfold DrawsAre; decide +kernel,
    by decide, by unfold DrawsAre; decide +kernel, by unfold DrawsAre; decide +kernel, by unfold DrawsAre; decide +kernel,
    by decide +kernel⟩

/-- Also the witness of XferWrFails. -/
theorem test_witness_XferRdFails :
    ∃ s : State, Quiet s ∧ DrawsAre s 0 (4#3) 3 ∧ (4#3 : Ack) ≠ Config.ackOk ∧ DrawsAre s 3 (1#3) 3 ∧
      DrawsAre s 6 (0#3) 3 ∧ (0#3 : Ack) ≠ Config.ackOk :=
  ⟨start (ackFault ++ ackOk ++ [false, false, false]), ⟨rfl, rfl⟩, by unfold DrawsAre; decide +kernel, by decide,
    by unfold DrawsAre; decide +kernel, by unfold DrawsAre; decide +kernel, by decide⟩

theorem test_witness_XferWrFirstAckOk :
    ∃ s : State, Quiet s ∧ DrawsAre s 0 Config.ackOk 3 :=
  ⟨{ start ackOk with wdata := 0x20000000#32 }, ⟨rfl, rfl⟩, by unfold DrawsAre; decide +kernel⟩

/-- At the capacity itself. -/
theorem test_witness_DumpRefusedForCapacity :
    (dumpStart 64#32 []).engine = .idle ∧ (dumpStart 64#32 []).params.dumpCapacity ≤ (dumpStart 64#32 []).dlen.toNat ∧
      (dumpStart 64#32 []).sched = [] := ⟨rfl, by decide, rfl⟩

/-- The same target serving the k words 0x11223300 on. -/
def okWords (k : Nat) : List Bool :=
  ackOk ++ ackOk ++ ackOk ++
    (List.range k).flatMap fun i => ackOk ++ bits (0x11223300 + i) 32 ++ [parity (BitVec.ofNat 32 (0x11223300 + i))]

/-- Before a DUMP of n bytes with that target. -/
def okStart (n : Nat) : State := dumpStart (BitVec.ofNat 32 n) (okWords ((n + 3) / 4 + 1))

/-- No byte, one word, and the last count below the capacity. -/
theorem test_witness_DumpStoresWordsInOrder :
    ∀ n ∈ [0, 4, 63], (okStart n).dlen.toNat = n ∧ Quiet (okStart n) ∧
      (okStart n).dlen.toNat < (okStart n).params.dumpCapacity ∧
      AlwaysOk (okStart n) (((okStart n).dlen.toNat + 3) / 4 + 1)
        (fun i => BitVec.ofNat 32 (0x11223300 + i)) (fun i => parity (BitVec.ofNat 32 (0x11223300 + i))) := by
  unfold Quiet AlwaysOk DrawsAre
  decide +kernel

theorem test_witness_DumpStopsOnFailedSetup :
    ∃ s : State, Quiet s ∧ s.dlen.toNat < s.params.dumpCapacity ∧ DrawsAre s 0 (4#3) 3 ∧ (4#3 : Ack) ≠ Config.ackOk ∧
      DrawsAre s 3 (7#3) 3 ∧ DrawsAre s 6 (2#3) 3 ∧ (2#3 : Ack) ≠ Config.ackOk :=
  ⟨dumpStart 8#32 (ackFault ++ ackOnes ++ [false, true, false]), ⟨rfl, rfl⟩, by decide, by unfold DrawsAre; decide +kernel,
    by decide, by unfold DrawsAre; decide +kernel, by unfold DrawsAre; decide +kernel, by decide⟩

/-- No bytes, and the last count below the capacity. -/
theorem test_witness_DumpOutcomeAndFrame :
    (Quiet (dumpStart 0#32 []) ∧ (dumpStart 0#32 []).dlen.toNat < (dumpStart 0#32 []).params.dumpCapacity) ∧
    (Quiet (dumpStart 63#32 []) ∧ (dumpStart 63#32 []).dlen.toNat < (dumpStart 63#32 []).params.dumpCapacity) :=
  ⟨⟨⟨rfl, rfl⟩, by decide⟩, ⟨rfl, rfl⟩, by decide⟩

theorem test_witness_HostReadHasNoSideEffect :
    ∃ s : State, s.inReset = false ∧ s.sched = .read 0x1000 4 :: [.engine] :=
  ⟨{ midWrbits with sched := [.read 0x1000 4, .engine] }, rfl, rfl⟩

/-- The first and the last byte, and the last aligned word. -/
theorem test_witness_BufReadsLittleEndian : 0 < buf12.params.dumpCapacity ∧ 63 < buf12.params.dumpCapacity ∧
    60 < buf12.params.dumpCapacity ∧ 60 % 4 = 0 := by decide

theorem test_witness_DumpedWordReadsByteReversed : 4 * 15 + 4 ≤ buf12.params.dumpCapacity ∧
    4 * 0 + 4 ≤ buf12.params.dumpCapacity := by decide

/-- Clause by clause at the edges: between the registers and BUF, past BUF, a narrow and a misaligned register access, a
16-bit and a misaligned BUF read at its first and last byte, a BUF write, a write to a read-only register. -/
theorem test_witness_BusErrorsChangeNothing :
    (start []).inReset = false ∧
    (0x030 ≤ 0x030 ∧ 0x030 < 0x1000) ∧ (0x030 ≤ 0xFFF ∧ 0xFFF < 0x1000) ∧ 0x1000 + (start []).params.dumpCapacity ≤ 0x1040 ∧
    (0x02C < 0x030 ∧ (1 : Nat) ≠ 4) ∧ (0x02E < 0x030 ∧ 0x02E % 4 ≠ 0) ∧
    (0x1000 < 0x1000 + (start []).params.dumpCapacity ∧ ((2 : Nat) = 2 ∨ (2 : Nat) = 4 ∧ 0x1000 % 4 ≠ 0)) ∧
    (0x103F < 0x1000 + (start []).params.dumpCapacity ∧ ((4 : Nat) = 2 ∨ (4 : Nat) = 4 ∧ 0x103F % 4 ≠ 0)) ∧
    0x1000 ≤ 0x1000 ∧ 0x02C ∈ [0x00C, 0x014, 0x018, 0x01C, 0x020, 0x024, 0x028, 0x02C] ∧
    { start [] with sched := [.read 0x030 4] }.sched = .read 0x030 4 :: [] ∧
    { start [] with sched := [.write 0x1000 1 0#32] }.sched = .write 0x1000 1 0#32 :: [] := by
  refine ⟨rfl, ?_, ?_, ?_, ?_, ?_, ?_, ?_, ?_, ?_, rfl, rfl⟩ <;> decide

theorem test_witness_OperandWritesStore :
    ∃ s t : State, s.inReset = false ∧ s.sched = .write 0x008 4 1#32 :: [] ∧ t.inReset = false ∧
      t.sched = .write 0x010 4 1#32 :: [] ∧ t.busy = true :=
  ⟨{ start [] with sched := [.write 0x008 4 1#32] }, { midWrbits with sched := [.write 0x010 4 1#32] }, rfl, rfl, rfl, rfl,
    rfl⟩

theorem test_witness_StatusFieldsAndClears :
    ∃ s : State, s.inReset = false ∧ s.sched = .write 0x004 4 6#32 :: [] ∧ s.errBusy = true :=
  ⟨{ start [] with errBusy := true, sched := [.write 0x004 4 6#32] }, rfl, rfl, rfl⟩

theorem test_witness_PinsAndParamsLayout : instance64.Legal ∧
    Params.Legal { base := 0, dumpCapacity := 2 ^ 20, lineResetHigh := 255, lineResetIdle := 0, wrTrn := 0 } := by decide

theorem test_witness_WaitSeesCommandDone : ∃ s : State, s.inReset = false ∧ s.sched = .wait :: [] ∧ s.busy = true :=
  ⟨{ midWrbits with sched := [.wait] }, rfl, rfl, rfl⟩

theorem test_witness_ResetFromAnyState : (∃ s : State, s.sched = .resetAssert :: [] ∧ s.busy = true) ∧
    ∃ s : State, s.sched = .resetRelease :: .read 0x024 4 :: [] ∧ s.inReset = true :=
  ⟨⟨{ midWrbits with sched := [.resetAssert] }, rfl, rfl⟩,
    { start [] with inReset := true, sched := [.resetRelease, .read 0x024 4] }, rfl, rfl⟩

theorem test_witness_AccessDuringResetRefused :
    ∃ s t u : State, s.inReset = true ∧ s.sched = .read 0x004 4 :: [] ∧ t.inReset = true ∧
      t.sched = .write 0x008 4 0#32 :: [] ∧ u.inReset = true ∧ u.sched = .wait :: [] :=
  ⟨{ start [] with inReset := true, sched := [.read 0x004 4] }, { start [] with inReset := true, sched := [.write 0x008 4 0#32] },
    { start [] with inReset := true, sched := [.wait] }, rfl, rfl, rfl, rfl, rfl, rfl⟩

/-- A running command and stored bytes. -/
theorem test_witness_StepKeepsInvariant : midWrbits.Inv ∧ buf12.Inv ∧ ∃ t, step midWrbits = .next t := by
  refine ⟨⟨by decide, rfl, fun i _ => by simp [midWrbits, startOut, start, State.reset], by decide, rfl, by decide,
      fun c hc => by simp [midWrbits, startOut, start, State.reset] at hc, ⟨⟨.wrbits 8#6, by decide +kernel⟩, by decide +kernel⟩,
      fun h => by simp [midWrbits, startOut, start, State.reset] at h⟩,
    ⟨by decide, rfl, fun i _ => by simp [buf12, start, State.reset], by decide, rfl, by decide, by decide +kernel, trivial,
      fun _ => rfl⟩, _, rfl⟩

theorem test_witness_WireGrowsAndIsCounted :
    (∃ t, step midWrbits = .next t) ∧ midWrbits.sched.head? ≠ some .resetAssert := ⟨⟨_, rfl⟩, by decide⟩

theorem test_witness_CommandsWriteOnlyTheirRegisters : (start []).engine = .idle ∧ Instr.pulse ≠ .connect ∧
    Instr.pulse ≠ .dump ∧ Instr.pulse ≠ .rdbit ∧ Instr.pulse ≠ .parity ∧ (∀ n, Instr.pulse ≠ .rdbits n) ∧
    (∀ r, Instr.pulse ≠ .xferRd r) ∧ (∀ r, Instr.pulse ≠ .xferWr r) ∧ Instr.pulse.wellFormed = true := by
  refine ⟨rfl, ?_, ?_, ?_, ?_, ?_, ?_, ?_, rfl⟩ <;> simp

theorem test_witness_HostAccessLeavesCommandAlone : midWrbits.busy = true ∧ midWrbits.inReset = false := ⟨rfl, rfl⟩

/-- A DUMP of 8 bytes that fails at its first setup write, and one that fails at its last read, one word stored. -/
def failAt (m : Nat) (i : Nat) : Reply := if i = m then .failed 4#3 7#3 2#3 else .clean 0x11223344#32 false

/-- The bits of that failure. -/
def failDraws : List Bool := ackFault ++ ackOnes ++ [false, true, false]

theorem test_witness_DumpStopsAtFirstFailure :
    ∃ s t : State, Quiet s ∧ Quiet t ∧ s.dlen.toNat < s.params.dumpCapacity ∧ t.dlen.toNat < t.params.dumpCapacity ∧
      0 < 3 + ((s.dlen.toNat + 3) / 4 + 1) ∧ 5 < 3 + ((t.dlen.toNat + 3) / 4 + 1) ∧ t.dlen.toNat = 8 ∧
      DumpDrawn s (failAt 0) 1 ∧ DumpDrawn t (failAt 5) 6 ∧ (∀ i, i < 5 → (failAt 5 i).succeeds = true) ∧
      (failAt 0 0).succeeds = false ∧ (failAt 5 5).succeeds = false := by
  refine ⟨dumpStart 8#32 failDraws,
    dumpStart 8#32 (ackOk ++ ackOk ++ ackOk ++ (ackOk ++ bits 0x11223344 32 ++ [false]) ++
      (ackOk ++ bits 0x11223344 32 ++ [false]) ++ failDraws),
    ⟨rfl, rfl⟩, ⟨rfl, rfl⟩, by decide, by decide, by decide, by decide, by decide, ?_, ?_, by decide, rfl, rfl⟩
  · intro i hi
    interval_cases i
    exact ⟨by unfold DrawsAre; decide +kernel, by decide, by unfold DrawsAre; decide +kernel,
      by unfold DrawsAre; decide +kernel, by decide⟩
  · intro i hi
    interval_cases i
    · exact ⟨by unfold DrawsAre; decide +kernel, trivial⟩
    · exact ⟨by unfold DrawsAre; decide +kernel, trivial⟩
    · exact ⟨by unfold DrawsAre; decide +kernel, trivial⟩
    · exact ⟨by unfold DrawsAre; decide +kernel, by unfold DrawsAre; decide +kernel, by decide +kernel⟩
    · exact ⟨by unfold DrawsAre; decide +kernel, by unfold DrawsAre; decide +kernel, by decide +kernel⟩
    · exact ⟨by unfold DrawsAre; decide +kernel, by decide, by unfold DrawsAre; decide +kernel,
        by unfold DrawsAre; decide +kernel, by decide⟩

/-- A target whose every second answer recovers, the stored words of recovered and clean reads differing. -/
def recoverOdd (i : Nat) : Reply :=
  if i % 2 = 1 then .recovered 4#3 7#3 0x55667788#32 false else .clean 0x11223344#32 false

/-- Its bits for the k transactions of a DUMP. -/
def oddDraws (k : Nat) : List Bool :=
  (List.range k).flatMap fun i =>
    (if i % 2 = 1 then ackFault ++ ackOnes ++ ackOk else ackOk) ++
      if i < 3 then [] else bits (if i % 2 = 1 then 0x55667788 else 0x11223344) 32 ++ [false]

/-- No byte, and the last count below the capacity: sixteen words stored, half of them by reads that recovered. -/
theorem test_witness_DumpCompletesThroughRecoveries :
    ∃ s t : State, s.dlen.toNat = 0 ∧ t.dlen.toNat = 63 ∧ Quiet s ∧ Quiet t ∧
      s.dlen.toNat < s.params.dumpCapacity ∧ t.dlen.toNat < t.params.dumpCapacity ∧
      DumpDrawn s recoverOdd (3 + ((s.dlen.toNat + 3) / 4 + 1)) ∧
      DumpDrawn t recoverOdd (3 + ((t.dlen.toNat + 3) / 4 + 1)) ∧
      (∀ i, i < 3 + ((s.dlen.toNat + 3) / 4 + 1) → (recoverOdd i).succeeds = true) ∧
      ∀ i, i < 3 + ((t.dlen.toNat + 3) / 4 + 1) → (recoverOdd i).succeeds = true := by
  refine ⟨dumpStart 0#32 (oddDraws 4), dumpStart 63#32 (oddDraws 20), rfl, rfl, ⟨rfl, rfl⟩, ⟨rfl, rfl⟩, by decide,
    by decide, ?_, ?_, by decide, by decide⟩
  · intro i hi
    replace hi : i < 4 := hi
    interval_cases i <;> first
      | exact ⟨by unfold DrawsAre; decide +kernel, True.intro⟩
      | exact ⟨by unfold DrawsAre; decide +kernel, by decide, by unfold DrawsAre; decide +kernel,
          by unfold DrawsAre; decide +kernel, True.intro⟩
      | exact ⟨by unfold DrawsAre; decide +kernel, by decide, by unfold DrawsAre; decide +kernel,
          by unfold DrawsAre; decide +kernel, by unfold DrawsAre; decide +kernel, by decide +kernel⟩
  · intro i hi
    replace hi : i < 20 := hi
    interval_cases i <;> first
      | exact ⟨by unfold DrawsAre; decide +kernel, True.intro⟩
      | exact ⟨by unfold DrawsAre; decide +kernel, by unfold DrawsAre; decide +kernel, by decide +kernel⟩
      | exact ⟨by unfold DrawsAre; decide +kernel, by decide, by unfold DrawsAre; decide +kernel,
          by unfold DrawsAre; decide +kernel, True.intro⟩
      | exact ⟨by unfold DrawsAre; decide +kernel, by decide, by unfold DrawsAre; decide +kernel,
          by unfold DrawsAre; decide +kernel, by unfold DrawsAre; decide +kernel, by decide +kernel⟩

/-- A register at BASE, BUF's last byte, the address below BASE. -/
theorem test_witness_WindowStandsAtBase :
    (start []).params.Legal ∧ 0x3FFFFFFF < (start []).params.base ∧ (start []).inReset = false ∧
      busRead (start []).params 0x40000004 4 = [.read 0x004 4] ∧ busRead (start []).params 0x4000103F 1 = [.read 0x103F 1] ∧
      busWrite (start []).params 0x40000008 4 1#32 = [.write 0x008 4 1#32] ∧ busRead (start []).params 0x3FFFFFFF 1 = [] := by
  decide

end Sys2Proof.Tests
end

/-! SUPPORT. The state of the block (spec/10_state.md): which lines a running command can come to, which fields a line
writes, which fields only the host writes, and how an event lands between two engine steps. -/

namespace Sys2Proof.Proofs

open Sys2Proof.Machine Sys2Proof.Laws

/-! ## The lines of the pseudocode -/

/-- The lines that bit sequences and transactions are made of (spec/41_codec.md, 43_transaction.md): no completion, no
session state, nothing of DUMP's own. -/
def transacts : Op → Bool
  | .pulseClock => true
  | .readBit _ => true
  | .writeBit _ => true
  | .setDirection _ => true
  | .parityOfWdata => true
  | .newTransaction => true
  | .testAck1 _ _ => true
  | .testAck2 _ => true
  | .testIdAck => true
  | .takePerr => true
  | .transactionOk => true
  | _ => false

theorem transacts_writeBits {w : Nat} (v : BitVec w) (n : Nat) : ∀ o ∈ writeBits v n, transacts o = true :=
  List.forall_mem_map.2 fun _ _ => rfl

theorem transacts_readBits (dst : Nat → ReadDst) (n : Nat) : ∀ o ∈ readBits dst n, transacts o = true :=
  List.forall_mem_map.2 fun _ _ => rfl

theorem transacts_idleBits4 : ∀ o ∈ idleBits4, transacts o = true := transacts_writeBits _ 4

theorem transacts_replicate {o : Op} (h : transacts o = true) (n : Nat) :
    ∀ o' ∈ List.replicate n o, transacts o' = true :=
  fun _ ho => List.eq_of_mem_replicate ho ▸ h

theorem transacts_request (r : Byte) (dst : Nat → ReadDst) : ∀ o ∈ request r dst, transacts o = true := by
  simp only [request, List.forall_mem_cons, List.forall_mem_append]
  exact ⟨rfl, transacts_writeBits r 8, rfl, rfl, transacts_readBits dst 3⟩

theorem transacts_turnToWrite (p : Params) : ∀ o ∈ turnToWrite p, transacts o = true :=
  List.forall_mem_append.2 ⟨transacts_replicate rfl _, List.forall_mem_singleton.2 rfl⟩

theorem transacts_readPhase : ∀ o ∈ readPhase, transacts o = true := by
  simp only [readPhase, List.forall_mem_cons, List.forall_mem_append]
  exact ⟨transacts_readBits .data 32, rfl, rfl, transacts_idleBits4⟩

theorem transacts_writePhase (p : Params) (v : Word) : ∀ o ∈ writePhase p v, transacts o = true := by
  simp only [writePhase, List.forall_mem_cons, List.forall_mem_append]
  exact ⟨transacts_turnToWrite p, transacts_writeBits v 32, rfl, transacts_idleBits4⟩

theorem transacts_dataPhase (p : Params) (x : XferDir) : ∀ o ∈ dataPhase p x, transacts o = true := by
  cases x with
  | rd =>
    exact List.forall_mem_append.2
      ⟨transacts_readPhase, List.forall_mem_cons.2 ⟨rfl, List.forall_mem_singleton.2 rfl⟩⟩
  | wr v => exact List.forall_mem_append.2 ⟨transacts_writePhase p v, List.forall_mem_singleton.2 rfl⟩

theorem transacts_recover (p : Params) (r : Byte) (x : XferDir) : ∀ o ∈ recover p r x, transacts o = true := by
  simp only [recover, recoverLead, List.forall_mem_append]
  exact ⟨⟨transacts_turnToWrite p, transacts_request reqAbort .acka, transacts_writePhase p abortPayload,
    transacts_request r .ack2⟩, List.forall_mem_singleton.2 rfl⟩

theorem transacts_transact (r : Byte) (x : XferDir) : ∀ o ∈ transact r x, transacts o = true := by
  simp only [transact, List.forall_mem_cons, List.forall_mem_append]
  exact ⟨rfl, transacts_request r .ack1, rfl, nofun⟩

theorem transacts_afterAck1 (p : Params) (r : Byte) (x : XferDir) (t : Trans) :
    ∀ o ∈ afterAck1 p r x t, transacts o = true := by
  unfold afterAck1
  split
  · exact transacts_dataPhase p x
  · exact transacts_recover p r x

theorem transacts_afterAck2 (p : Params) (x : XferDir) (t : Trans) : ∀ o ∈ afterAck2 p x t, transacts o = true := by
  unfold afterAck2
  split
  · exact transacts_dataPhase p x
  · exact transacts_turnToWrite p

theorem transacts_afterIdAck (p : Params) (t : Trans) : ∀ o ∈ afterIdAck p t, transacts o = true := by
  unfold afterIdAck
  split
  · exact transacts_dataPhase p .rd
  · exact transacts_turnToWrite p

theorem transacts_lineReset (p : Params) : ∀ o ∈ lineReset p, transacts o = true :=
  List.forall_mem_append.2 ⟨transacts_replicate rfl _, transacts_replicate rfl _⟩

theorem transacts_wake : ∀ o ∈ wake, transacts o = true := by
  simp only [wake, List.forall_mem_cons, List.forall_mem_append]
  exact ⟨rfl, transacts_writeBits _ 32, transacts_writeBits _ 32, transacts_writeBits _ 32, transacts_writeBits _ 32,
    transacts_idleBits4, transacts_writeBits activation 8⟩

theorem transacts_modeSwitch : ∀ o ∈ modeSwitch, transacts o = true := transacts_writeBits modeSwitchSeq 16

theorem transacts_idRequest : ∀ o ∈ idRequest, transacts o = true := by
  simp only [idRequest, List.forall_mem_cons, List.forall_mem_append]
  exact ⟨rfl, transacts_request reqId .ack1, rfl, nofun⟩

/-- What one pass of DUMP's read loop is made of (44_dump.md R221, R223). -/
theorem mem_dumpPass {i k : Nat} {o : Op} (ho : o ∈ dumpPass i k) :
    transacts o = true ∨
      (i < k ∧ (o = .dumpCheck ∨ o = .dumpRead (i + 1) k ∨ (i ≠ 0 ∧ o = .storeWord (i - 1)))) := by
  unfold dumpPass at ho
  split at ho
  · next hik =>
    simp only [dumpIteration, List.append_assoc, List.cons_append, List.mem_append, List.mem_cons, List.mem_ite_nil_left,
      List.not_mem_nil, or_false] at ho
    obtain ho | rfl | ho | rfl := ho
    · exact .inl (transacts_transact _ _ _ ho)
    · exact .inr ⟨hik, .inl rfl⟩
    · exact .inr ⟨hik, .inr (.inr ho)⟩
    · exact .inr ⟨hik, .inr (.inl rfl)⟩
  · exact absurd ho (by simp)

/-- What DUMP is made of (44_dump.md R221, R225). -/
theorem mem_dumpProg {p : Params} {l : Latch} {o : Op} (ho : o ∈ dumpProg p l) :
    transacts o = true ∨ o = .complete .capExceeded ∨
      (l.byteCount < p.dumpCapacity ∧
        (o = .dumpCheck ∨ o = .dumpRead 0 (wordCount l.byteCount + 1) ∨ o = .complete .dumpDone)) := by
  have setup : ∀ {r : Byte} {v : Word}, o ∈ dumpSetup r v → transacts o = true ∨ o = .dumpCheck := by
    intro r v h
    obtain h | h := List.mem_append.1 h
    · exact .inl (transacts_transact _ _ _ h)
    · exact .inr (List.mem_singleton.1 h)
  unfold dumpProg at ho
  split at ho
  · exact .inr (.inl (List.mem_singleton.1 ho))
  · next hle =>
    have hlt := Nat.lt_of_not_le hle
    simp only [List.mem_append, List.mem_cons, List.not_mem_nil, or_false] at ho
    obtain ho | ho | ho | rfl | rfl := ho
    · exact (setup ho).imp_right fun h => .inr ⟨hlt, .inl h⟩
    · exact (setup ho).imp_right fun h => .inr ⟨hlt, .inl h⟩
    · exact (setup ho).imp_right fun h => .inr ⟨hlt, .inl h⟩
    · exact .inr (.inr ⟨hlt, .inr (.inl rfl)⟩)
    · exact .inr (.inr ⟨hlt, .inr (.inr rfl)⟩)

/-- The lines a command can come to after a line: those it had, a transaction's, or what DUMP goes on with. The latch stays
(spec/10_state.md R46). -/
theorem runLine_lines {op : Op} {r r' : Running} {s : State} (h : (runLine op r s).engine = .running r') :
    r'.latch = r.latch ∧ ∀ o ∈ r'.prog, o ∈ r.prog ∨ transacts o = true ∨
      (op = .dumpCheck ∧ o = .complete .dumpStopped) ∨
      ∃ i k, op = .dumpRead i k ∧ i < k ∧
        (o = .dumpCheck ∨ o = .dumpRead (i + 1) k ∨ (i ≠ 0 ∧ o = .storeWord (i - 1))) := by
  have front : ∀ {ops : List Op} {o : Op}, (∀ o ∈ ops, transacts o = true) → o ∈ ops ++ r.prog →
      o ∈ r.prog ∨ transacts o = true := fun ht ho =>
    (List.mem_append.1 ho).symm.imp_right (ht _)
  cases op with
  | complete e =>
    rw [runLine, complete_engine] at h
    nomatch h
  | testAck1 q x =>
    obtain rfl := Engine.running.inj h
    exact ⟨rfl, fun o ho => (front (transacts_afterAck1 _ _ _ _) ho).imp_right .inl⟩
  | testAck2 x =>
    obtain rfl := Engine.running.inj h
    exact ⟨rfl, fun o ho => (front (transacts_afterAck2 _ _ _) ho).imp_right .inl⟩
  | testIdAck =>
    obtain rfl := Engine.running.inj h
    exact ⟨rfl, fun o ho => (front (transacts_afterIdAck _ _) ho).imp_right .inl⟩
  | dumpCheck =>
    obtain rfl := Engine.running.inj h
    refine ⟨rfl, fun o ho => ?_⟩
    dsimp only [afterDumpCheck] at ho
    split at ho
    · exact .inl ho
    · exact .inr (.inr (.inl ⟨rfl, List.mem_singleton.1 ho⟩))
  | dumpRead i k =>
    obtain rfl := Engine.running.inj h
    refine ⟨rfl, fun o ho => ?_⟩
    obtain ho | ho := List.mem_append.1 ho
    · obtain ht | ⟨hik, ho⟩ := mem_dumpPass ho
      · exact .inr (.inl ht)
      · exact .inr (.inr (.inr ⟨i, k, rfl, hik, ho⟩))
    · exact .inl ho
  | _ =>
    obtain rfl := Engine.running.inj h
    exact ⟨rfl, fun o ho => .inl ho⟩

/-! ## What a line writes -/

/-- The six result registers are as they were (spec/10_state.md R47). -/
structure ResultsHeld (s t : State) : Prop where
  rdata : t.rdata = s.rdata
  idcode : t.idcode = s.idcode
  acks : t.acks = s.acks
  dcount : t.dcount = s.dcount
  result : t.result = s.result
  recovered : t.recovered = s.recovered

/-- Only the completion step writes results (R47). -/
theorem runLine_holdsResults {op : Op} (h : ∀ e, op ≠ .complete e) (r : Running) (s : State) :
    ResultsHeld s (runLine op r s) := by
  cases op with
  | complete e => exact absurd rfl (h e)
  | _ => exact ⟨rfl, rfl, rfl, rfl, rfl, rfl⟩

/-- Only a completion writes ACKS, from the transaction record (R39). -/
theorem runLine_acks (op : Op) (r : Running) (s : State) :
    (runLine op r s).acks = s.acks ∨ (runLine op r s).acks = packAcks r.shadow.trans := by
  cases op with
  | complete e =>
    cases e with
    | plain => exact .inl rfl
    | value => exact .inl rfl
    | capExceeded => exact .inl rfl
    | _ => exact .inr rfl
  | _ => exact .inl rfl

/-- Only a completion of DUMP writes DCOUNT (R40): 0 or a number of bytes up to the latched DLEN, which its line checks. -/
theorem runLine_dcount {op : Op} {r : Running} {s : State} (hop : op.legal s.params r.latch = true) :
    (runLine op r s).dcount = s.dcount ∨ (runLine op r s).dcount = 0#32 ∨
      (r.latch.byteCount < s.params.dumpCapacity ∧ (runLine op r s).dcount.toNat ≤ r.latch.byteCount) := by
  cases op with
  | complete e =>
    cases e with
    | capExceeded => exact .inr (.inl rfl)
    | dumpDone => exact .inr (.inr ⟨of_decide_eq_true hop, Nat.le_refl _⟩)
    | dumpStopped =>
      refine .inr (.inr ⟨of_decide_eq_true hop, ?_⟩)
      show (stoppedCount r.latch.byteCount r.shadow.words).toNat ≤ _
      rw [stoppedCount, BitVec.toNat_ofNat]
      exact (Nat.mod_le _ _).trans (Nat.min_le_left _ _)
    | _ => exact .inl rfl
  | _ => exact .inl rfl

/-- Only a store writes BUF (R44). -/
theorem runLine_buf (op : Op) (r : Running) (s : State) :
    (runLine op r s).buf = s.buf ∨
      ∃ k w, op = .storeWord k ∧ (runLine op r s).buf = bufAfterStore s.buf k w := by
  cases op with
  | complete e => cases e <;> exact .inl rfl
  | storeWord k => exact .inr ⟨k, _, rfl, rfl⟩
  | _ => exact .inl rfl

/-- A line leaves SWCLK high (R21). -/
theorem runLine_swclk {s : State} (h : s.swclk = true) (op : Op) (r : Running) : (runLine op r s).swclk = true := by
  cases op with
  | complete e => cases e <;> exact h
  | pulseClock => rfl
  | readBit dst => rfl
  | writeBit v => rfl
  | _ => exact h

/-! ## Wire and CYCCNT -/

/-- Wire of t is that of s and some cycles more, and CYCCNT has counted them (10_state.md R41, 00_scope.md R11). -/
def WireGrows (s t : State) : Prop :=
  ∃ tr, t.wire = s.wire ++ tr ∧ t.cyccnt = s.cyccnt + BitVec.ofNat 32 tr.length

theorem WireGrows.of_eq {s t : State} (hw : t.wire = s.wire) (hc : t.cyccnt = s.cyccnt) : WireGrows s t :=
  ⟨[], by simp [hw], by simp [hc]⟩

theorem WireGrows.of_cycle {s t : State} {c : Cycle} (hw : t.wire = s.wire ++ [c]) (hc : t.cyccnt = s.cyccnt + 1#32) :
    WireGrows s t := ⟨[c], hw, hc⟩

theorem WireGrows.trans {s t u : State} (h : WireGrows s t) (k : WireGrows t u) : WireGrows s u := by
  obtain ⟨tr, hw, hc⟩ := h
  obtain ⟨tr', hw', hc'⟩ := k
  exact ⟨tr ++ tr', by rw [hw', hw, List.append_assoc],
    by rw [hc', hc, List.length_append, ofNat_add_32, BitVec.add_assoc]⟩

theorem runLine_wireGrows (op : Op) (r : Running) (s : State) : WireGrows s (runLine op r s) := by
  cases op with
  | complete e => cases e <;> exact .of_eq rfl rfl
  | pulseClock => exact .of_cycle rfl rfl
  | readBit dst => exact .of_cycle rfl rfl
  | writeBit v => exact .of_cycle rfl rfl
  | _ => exact .of_eq rfl rfl

theorem engineStep_wireGrows (s : State) : WireGrows s (engineStep s) := by
  obtain ⟨-, h⟩ | ⟨r, -, -, h⟩ | ⟨r, op, rest, -, -, h⟩ := engineStep_cases s
  · rw [h]
    exact .of_eq rfl rfl
  · rw [h]
    exact .of_eq rfl rfl
  · rw [h]
    exact runLine_wireGrows op _ s

/-- What holds of CYCCNT and Wire together stays (R41). -/
theorem WireGrows.counted {s t : State} (h : WireGrows s t) (hs : s.cyccnt = BitVec.ofNat 32 s.wire.length) :
    t.cyccnt = BitVec.ofNat 32 t.wire.length := by
  obtain ⟨tr, hw, hc⟩ := h
  rw [hw, hc, hs, List.length_append, ofNat_add_32]

/-! ## What only the host writes -/

/-- s with the fields that only a host access writes taken from g. -/
def withHostFields (g s : State) : State :=
  { s with
    wdata := g.wdata, dlen := g.dlen, errCmd := g.errCmd, errBusy := g.errBusy, resp := g.resp, sched := g.sched }

theorem runLine_withHostFields (g : State) (op : Op) (r : Running) (s : State) :
    runLine op r (withHostFields g s) = withHostFields g (runLine op r s) := by
  cases op with
  | complete e => cases e <;> rfl
  | _ => rfl

/-- The engine does not see what only the host writes (10_state.md R46). -/
theorem engineStep_withHostFields (g s : State) :
    engineStep (withHostFields g s) = withHostFields g (engineStep s) := by
  have he : (withHostFields g s).engine = s.engine := rfl
  obtain ⟨hi, h⟩ | ⟨r, hr, hp, h⟩ | ⟨r, op, rest, hr, hp, h⟩ := engineStep_cases s
  · rw [h, engineStep, he, hi]
  · rw [h, engineStep, he, hr]
    dsimp only
    rw [hp]
    rfl
  · rw [h, engineStep_cons (he.trans hr) hp, runLine_withHostFields]

theorem engineRun_withHostFields (g : State) (n : Nat) (s : State) :
    engineRun n (withHostFields g s) = withHostFields g (engineRun n s) := by
  induction n generalizing s with
  | zero => rfl
  | succ n ih =>
    cases hb : s.busy with
    | false =>
      have hi := (busy_eq_false_iff s).1 hb
      rw [engineRun_idle hi, engineRun_idle (s := withHostFields g s) hi]
    | true => rw [engineRun_busy hb, engineRun_busy (s := withHostFields g s) hb, engineStep_withHostFields, ih]

theorem runToEnd_withHostFields (g s : State) : runToEnd (withHostFields g s) = withHostFields g (runToEnd s) :=
  engineRun_withHostFields g (stepsLeft s) s

theorem withHostFields_of_leaves {s t : State} (h : EngineLeaves s t) : withHostFields s t = t := by
  simp only [withHostFields, ← h.errCmd, ← h.errBusy, ← h.wdata, ← h.dlen, ← h.resp, ← h.sched]

/-- A register write reads and sets the host's fields only (R28, R35, R37). -/
theorem regWrite_withHostFields (off : Nat) (v : Word) (g s : State) :
    regWrite off v (withHostFields g s) = withHostFields (regWrite off v g) s := by
  unfold regWrite
  split
  · rfl
  split
  · rfl
  split <;> rfl

/-- A register write, seen from a state the engine came to. -/
theorem regWrite_of_leaves {s t : State} (h : EngineLeaves s t) (off : Nat) (v : Word) :
    withHostFields (regWrite off v s) t = regWrite off v t := by
  rw [← regWrite_withHostFields, withHostFields_of_leaves h]

/-! ## The view of a command -/

theorem commandView_regWrite (off : Nat) (v : Word) (s : State) : commandView (regWrite off v s) = commandView s := by
  rw [← regWrite_of_leaves (.rfl' s)]
  rfl

theorem commandView_refuseWord (s : State) : commandView (refuseWord s) = commandView s := by
  unfold refuseWord
  split <;> rfl

theorem runToEnd_commandView (s : State) : runToEnd (commandView s) = commandView (runToEnd s) :=
  runToEnd_withHostFields (commandView State.reset) s

/-- Two states that differ in the host's fields only run to two such states (10_state.md R46). -/
theorem commandView_runToEnd_congr {s t : State} (h : commandView t = commandView s) :
    commandView (runToEnd t) = commandView (runToEnd s) := by
  rw [← runToEnd_commandView, h, runToEnd_commandView]

theorem WireGrows.of_commandView {s t : State} (h : commandView t = commandView s) : WireGrows s t :=
  .of_eq (show (commandView t).wire = (commandView s).wire by rw [h])
    (show (commandView t).cyccnt = (commandView s).cyccnt by rw [h])

/-! ## How an event lands -/

/-- The event e of the total order, landing in s, leaves u, from which the engine goes on (20_memory.md R72). -/
inductive Lands (s : State) : Event → State → Prop
  /-- One engine step. -/
  | engine : Lands s .engine (engineStep s)
  /-- A read, a bus error, a register write or a refused CMD write: the host's fields only (R64, 60_exceptions.md R240). -/
  | host {e : Event} {u : State} (hv : commandView u = commandView s) : Lands s e u
  /-- The host's `wait` (30_encoding.md R96). -/
  | wait (b : BusResp) : Lands s .wait (respond b (runToEnd s))
  /-- A command accepted (R90). -/
  | accepted {off n : Nat} {v : Word} (i : Instr) (hi : s.engine = .idle) (hw : i.wellFormed = true) :
      Lands s (.write off n v) (accepted i (enterOf i) (progOf i) (respond .written s))
  /-- A command accepted that completes inside the write (10_state.md R29). -/
  | completed {off n : Nat} {v : Word} (i : Instr) (hi : s.engine = .idle) (hw : i.wellFormed = true) :
      Lands s (.write off n v) (runToEnd (accepted i (enterOf i) (progOf i) (respond .written s)))
  /-- The reset input asserted (70_reset_and_hazards.md R270). -/
  | resetAssert : Lands s .resetAssert (assertReset s)
  /-- The reset input released. -/
  | resetRelease : Lands s .resetRelease (releaseReset s)

theorem exists_lands {s t u : State} {e : Event}
    (h : (Host.Outcome.next (advance u) : Host.Outcome State Fault Refusal) = .next t) (hu : Lands s e u) :
    ∃ u, Lands s e u ∧ t = advance u := ⟨u, hu, (Host.Outcome.next.inj h).symm⟩

/-- The cases of a CMD write (30_encoding.md R90). -/
theorem exec_lands {s t : State} {i : Instr} {off n : Nat} {v : Word} (h : exec i (respond .written s) = .next t) :
    ∃ u, Lands s (.write off n v) u ∧ t = advance u := by
  cases hb : (respond .written s).busy with
  | true =>
    rw [exec_busy i hb] at h
    exact exists_lands h (.host rfl)
  | false =>
    have hi := (busy_eq_false_iff _).1 hb
    cases hw : i.wellFormed with
    | false =>
      rw [exec_illFormed hi hw] at h
      exact exists_lands h (.host rfl)
    | true =>
      rw [exec_accepted hi hw] at h
      split at h
      · exact exists_lands h (.completed i hi hw)
      · exact exists_lands h (.accepted i hi hw)

/-- The cases of an event. -/
theorem stepEvent_lands {s t : State} {e : Event} (h : stepEvent e s = .next t) :
    ∃ u, Lands s e u ∧ t = advance u := by
  have access : ∀ {o : Host.Outcome State Fault Refusal},
      (if s.inReset then .refused .accessDuringReset else o) = .next t → o = .next t := by
    intro o ho
    split at ho
    · nomatch ho
    · exact ho
  cases e with
  | engine => exact exists_lands h .engine
  | read off n => exact exists_lands (access h) (.host rfl)
  | write off n v =>
    replace h := access h
    obtain hw | hw | ⟨-, -, hw⟩ := hostWrite_cases s off n v
    · rw [hw] at h
      exact exists_lands h (.host rfl)
    · rw [hw] at h
      exact exists_lands h (.host (commandView_regWrite off v s))
    · rw [hw] at h
      dsimp only [commandWrite] at h
      split at h
      · exact exec_lands h
      · exact exists_lands h (.host (commandView_refuseWord _))
  | wait => exact exists_lands (access h) (.wait _)
  | resetAssert => exact exists_lands h .resetAssert
  | resetRelease => exact exists_lands h .resetRelease

/-- What a step of the machine can do: with nothing scheduled the engine goes on; else the next event lands. -/
theorem step_cases {s t : State} (h : step s = .next t) :
    (s.sched = [] ∧ t = advance s) ∨
      ∃ e rest u, s.sched = e :: rest ∧ Lands { s with sched := rest } e u ∧ t = advance u := by
  cases hs : s.sched with
  | nil =>
    rw [step_nil hs] at h
    exact .inl ⟨rfl, (Host.Outcome.next.inj h).symm⟩
  | cons e rest =>
    rw [step_cons hs] at h
    obtain ⟨u, hu, ht⟩ := stepEvent_lands h
    exact .inr ⟨e, rest, u, rfl, hu, ht⟩

/-! ## Which lines are a command's -/

/-- The commands a completion belongs to (spec/10_state.md R47 and each command's rule); a plain one writes no register. -/
def endingOf (i : Instr) : Ending → Prop
  | .plain => True
  | .value => i = .rdbit ∨ (∃ n, i = .rdbits n) ∨ i = .parity
  | .xferRd => ∃ r, i = .xferRd r
  | .xferWr => ∃ r, i = .xferWr r
  | .session => i = .connect
  | .capExceeded => i = .dump
  | .dumpDone => i = .dump
  | .dumpStopped => i = .dump

/-- The commands a line belongs to: the lines that write a register or BUF are each some commands' own. -/
def lineOf (i : Instr) : Op → Prop
  | .enterState _ => i = .connect
  | .dumpCheck => i = .dump
  | .dumpRead _ _ => i = .dump
  | .storeWord _ => i = .dump
  | .complete e => endingOf i e
  | _ => True

theorem lineOf_of_transacts {o : Op} (h : transacts o = true) (i : Instr) : lineOf i o := by
  cases o with
  | enterState x => nomatch h
  | dumpCheck => nomatch h
  | dumpRead j k => nomatch h
  | storeWord k => nomatch h
  | complete e => nomatch h
  | _ => trivial

/-- The pseudocode of a command is made of its lines. -/
theorem lineOf_progOf (i : Instr) (p : Params) (l : Latch) : ∀ o ∈ progOf i p l, lineOf i o := by
  have ends : ∀ {ops : List Op} {e : Ending}, (∀ o ∈ ops, transacts o = true) → endingOf i e →
      ∀ o ∈ ops ++ [.complete e], lineOf i o := by
    intro ops e ht he o ho
    obtain ho | ho := List.mem_append.1 ho
    · exact lineOf_of_transacts (ht o ho) i
    · obtain rfl := List.mem_singleton.1 ho
      exact he
  cases i with
  | pulse => exact ends (List.forall_mem_singleton.2 rfl) trivial
  | rdbit => exact ends (List.forall_mem_singleton.2 rfl) (.inl rfl)
  | wrbit v => exact ends (List.forall_mem_singleton.2 rfl) trivial
  | setdir d => exact ends (List.forall_mem_singleton.2 rfl) trivial
  | wrbits n => exact ends (transacts_writeBits _ _) trivial
  | rdbits n => exact ends (transacts_readBits _ _) (.inr (.inl ⟨n, rfl⟩))
  | parity => exact ends (List.forall_mem_singleton.2 rfl) (.inr (.inr rfl))
  | xferRd r => exact ends (transacts_transact _ _) ⟨r, rfl⟩
  | xferWr r => exact ends (transacts_transact _ _) ⟨r, rfl⟩
  | connect =>
    intro o ho
    simp only [progOf, connectProg, List.mem_append, List.mem_cons, List.not_mem_nil, or_false] at ho
    obtain ho | rfl | ho | rfl | ho | rfl | ho | rfl | ho | rfl := ho
    · exact lineOf_of_transacts (transacts_wake _ ho) _
    · rfl
    · exact lineOf_of_transacts (transacts_lineReset p _ ho) _
    · rfl
    · exact lineOf_of_transacts (transacts_modeSwitch _ ho) _
    · rfl
    · exact lineOf_of_transacts (transacts_lineReset p _ ho) _
    · rfl
    · exact lineOf_of_transacts (transacts_idRequest _ ho) _
    · rfl
  | dump =>
    intro o ho
    obtain ht | rfl | ⟨-, rfl | rfl | rfl⟩ := mem_dumpProg ho
    · exact lineOf_of_transacts ht _
    · rfl
    · rfl
    · rfl
    · rfl

/-- A running command comes only to its own lines. -/
theorem lineOf_runLine {i : Instr} {op : Op} {r r' : Running} {s : State} (h : (runLine op r s).engine = .running r')
    (hop : lineOf i op) (hr : ∀ o ∈ r.prog, lineOf i o) : ∀ o ∈ r'.prog, lineOf i o := by
  intro o ho
  obtain ho | ht | ⟨rfl, rfl⟩ | ⟨j, k, rfl, -, rfl | rfl | ⟨-, rfl⟩⟩ := (runLine_lines h).2 o ho
  · exact hr o ho
  · exact lineOf_of_transacts ht i
  · exact hop
  · exact hop
  · exact hop
  · exact hop

/-- Only DUMP has lines that ask something of the parameters (44_dump.md R224, R225). -/
theorem legal_of_lineOf {i : Instr} (hi : i ≠ .dump) {o : Op} (h : lineOf i o) (p : Params) (l : Latch) :
    o.legal p l = true := by
  cases o with
  | dumpCheck => exact absurd h hi
  | dumpRead j k => exact absurd h hi
  | storeWord k => exact absurd h hi
  | complete e =>
    cases e with
    | dumpDone => exact absurd h hi
    | dumpStopped => exact absurd h hi
    | _ => rfl
  | _ => rfl

/-! ## The invariant of the block -/

theorem legal_of_transacts {o : Op} (h : transacts o = true) (p : Params) (l : Latch) : o.legal p l = true :=
  legal_of_lineOf (i := .pulse) (by simp) (lineOf_of_transacts h _) p l

/-- The lines a command starts with are legal: DUMP reads ceil(n/4) + 1 words, and n is below the capacity, a multiple of 4
(44_dump.md R223, R225). -/
theorem legal_progOf {p : Params} (hp : p.Legal) (i : Instr) (l : Latch) : ∀ o ∈ progOf i p l, o.legal p l = true := by
  intro o ho
  by_cases hi : i = .dump
  · subst hi
    obtain ht | rfl | ⟨hlt, rfl | rfl | rfl⟩ := mem_dumpProg ho
    · exact legal_of_transacts ht p l
    · rfl
    · exact decide_eq_true hlt
    · have hwords : 4 * (wordCount l.byteCount + 1) ≤ p.dumpCapacity + 4 := by
        obtain ⟨-, hmul, -⟩ := hp
        unfold wordCount
        omega
      simp [Op.legal, hwords, hlt]
    · exact decide_eq_true hlt
  · exact legal_of_lineOf hi (lineOf_progOf i p l o ho) p l

/-- A legal line leads to legal lines only. -/
theorem legal_runLine {op : Op} {r r' : Running} {s : State} (h : (runLine op r s).engine = .running r')
    (hop : op.legal s.params r.latch = true) (hr : ∀ o ∈ r.prog, o.legal s.params r.latch = true) :
    ∀ o ∈ r'.prog, o.legal s.params r.latch = true := by
  intro o ho
  obtain ho | ht | ⟨rfl, rfl⟩ | ⟨j, k, rfl, hjk, hcase⟩ := (runLine_lines h).2 o ho
  · exact hr o ho
  · exact legal_of_transacts ht _ _
  · exact hop
  · obtain ⟨hk, hlt⟩ : 4 * k ≤ s.params.dumpCapacity + 4 ∧ r.latch.byteCount < s.params.dumpCapacity := by
      simpa [Op.legal] using hop
    obtain rfl | rfl | ⟨hj, rfl⟩ := hcase
    · exact decide_eq_true hlt
    · exact hop
    · exact decide_eq_true (by omega)

/-- The word of a command fits its own row of the opcode map and no other (30_encoding.md R91, R93). -/
theorem fits_encode (i : Instr) : EncodesRow.Statement i := by
  cases i with
  | pulse => exact EncodesRow.pulse
  | rdbit => exact EncodesRow.rdbit
  | wrbit v => exact EncodesRow.wrbit v
  | setdir d => exact EncodesRow.setdir d
  | wrbits n => exact EncodesRow.wrbits n
  | rdbits n => exact EncodesRow.rdbits n
  | parity => exact EncodesRow.parity
  | connect => exact EncodesRow.connect
  | xferRd r => exact EncodesRow.xferRd r
  | xferWr r => exact EncodesRow.xferWr r
  | dump => exact EncodesRow.dump

/-- Every command decodes from its own word (R92, R93). -/
theorem decode_encode {i : Instr} (h : i.wellFormed = true) : decode (encode i) = .ok i := by
  have row : ∀ r ∈ opcodeMap, r.fits (encode i) = decide (r = rowOf i) := fits_encode i
  simp only [opcodeMap, List.forall_mem_cons] at row
  obtain ⟨h1, h2, h3, h4, h5, h6, h7, h8, h9, h10, h11, -⟩ := row
  unfold decode
  rw [h1, h2, h3, h4, h5, h6, h7, h8, h9, h10, h11]
  cases i with
  | wrbit v => exact congrArg (Except.ok ∘ Instr.wrbit) (latch_bit v State.reset)
  | setdir d => exact congrArg (Except.ok ∘ Instr.setdir) (latch_direction d State.reset)
  | wrbits n =>
    show decodeCount .wrbits (nField (encode (.wrbits n))) = _
    rw [nField_encode_wrbits]
    exact if_pos h
  | rdbits n =>
    show decodeCount .rdbits (nField (encode (.rdbits n))) = _
    rw [nField_encode_rdbits]
    exact if_pos h
  | xferRd r => exact congrArg (Except.ok ∘ Instr.xferRd) (bField_encode_xferRd r)
  | xferWr r => exact congrArg (Except.ok ∘ Instr.xferWr) (bField_encode_xferWr r)
  | _ => rfl

/-- The invariant speaks of nothing that only the host writes. -/
theorem inv_congr {s t : State} (hv : commandView t = commandView s) (h : s.Inv) : t.Inv := by
  have view : ∀ u : State, (commandView u).Inv ↔ u.Inv := fun u =>
    ⟨fun k => ⟨k.params, k.swclk, k.acks, k.dcount, k.cycles, k.canonical, k.inRange, k.engine, k.reset⟩,
      fun k => ⟨k.params, k.swclk, k.acks, k.dcount, k.cycles, k.canonical, k.inRange, k.engine, k.reset⟩⟩
  rwa [← view, hv, view]

theorem capacity_pos {p : Params} (hp : p.Legal) : 0 < p.dumpCapacity := by
  obtain ⟨-, -, hmin, -⟩ := hp
  omega

/-- Fields below a word's zeros: what is 0 from bit k of the upper part on is 0 from bit k + n on. -/
theorem getLsbD_append_high {m n k : Nat} {x : BitVec m} (y : BitVec n) (hx : ∀ i, k ≤ i → x.getLsbD i = false) :
    ∀ i, k + n ≤ i → (x ++ y).getLsbD i = false := by
  intro i hi
  rw [BitVec.getLsbD_append, if_neg (by omega)]
  exact hx _ (by omega)

theorem getLsbD_zero_high (m : Nat) : ∀ i, 0 ≤ i → (0#m).getLsbD i = false := fun _ _ => BitVec.getLsbD_zero

/-- ACKS has nothing above bit 10 (10_state.md R39). -/
theorem packAcks_high (t : Trans) : ∀ i, 11 ≤ i → (packAcks t).getLsbD i = false :=
  getLsbD_append_high t.ack1 (getLsbD_append_high t.acka (getLsbD_append_high t.ack2
    (getLsbD_append_high (.ofBool t.rpar) (getLsbD_append_high (.ofBool t.perr) (getLsbD_zero_high 21)))))

/-- A legal line of an accepted command keeps the invariant. -/
theorem inv_runLine {op : Op} {r : Running} {s : State} (h : s.Inv) (hreset : s.inReset = false)
    (hcmd : ∃ i, decode r.latch.cmd = .ok i) (hop : op.legal s.params r.latch = true)
    (hr : ∀ o ∈ r.prog, o.legal s.params r.latch = true) : (runLine op r s).Inv := by
  have hp := runLine_params op r s
  refine ⟨hp ▸ h.params, runLine_swclk h.swclk op r, ?acks, ?dcount, (runLine_wireGrows op r s).counted h.cycles,
    ?canonical, ?inRange, ?engine, ?reset⟩
  case acks =>
    obtain ha | ha := runLine_acks op r s
    · exact ha ▸ h.acks
    · exact ha ▸ packAcks_high _
  case dcount =>
    rw [hp]
    obtain hd | hd | ⟨hlt, hle⟩ := runLine_dcount hop
    · exact hd ▸ h.dcount
    · exact hd ▸ capacity_pos h.params
    · exact Nat.lt_of_le_of_lt hle hlt
  case canonical =>
    obtain hb | ⟨k, w, -, hb⟩ := runLine_buf op r s
    · exact hb ▸ h.canonical
    · exact hb ▸ bufAfterStore_wf _ k w h.canonical
  case inRange =>
    rw [hp]
    obtain hb | ⟨k, w, rfl, hb⟩ := runLine_buf op r s
    · exact hb ▸ h.inRange
    · intro c hc
      have hk : 4 * k + 4 ≤ s.params.dumpCapacity := of_decide_eq_true hop
      obtain ⟨hlo, hhi⟩ | hc := mem_bufAfterStore _ _ _ c (hb ▸ hc)
      · omega
      · exact h.inRange c hc
  case engine =>
    rw [hp]
    cases he : (runLine op r s).engine with
    | idle => trivial
    | running r' =>
      have hl := (runLine_lines he).1
      exact ⟨hl ▸ hcmd, hl ▸ legal_runLine he hop hr⟩
  case reset =>
    intro hi
    rw [(runLine_leaves op r s).inReset, hreset] at hi
    nomatch hi

theorem inv_engineStep (s : State) (h : s.Inv) : (engineStep s).Inv := by
  obtain ⟨-, hs⟩ | ⟨r, -, -, hs⟩ | ⟨r, op, rest, hr, hp, hs⟩ := engineStep_cases s
  · rwa [hs]
  · rw [hs]
    exact ⟨h.params, h.swclk, h.acks, h.dcount, h.cycles, h.canonical, h.inRange, trivial, fun _ => rfl⟩
  · rw [hs]
    have hreset : s.inReset = false := by
      by_contra hin
      have := h.reset (by simpa using hin)
      rw [hr] at this
      nomatch this
    have hlegal : (Engine.running r).Legal s.params := hr ▸ h.engine
    obtain ⟨hcmd, hops⟩ := hlegal
    rw [hp, List.forall_mem_cons] at hops
    obtain ⟨hop, hrest⟩ := hops
    exact inv_runLine h hreset hcmd hop hrest

/-- The acceptance of a command keeps the invariant (10_state.md R46). -/
theorem inv_accepted (i : Instr) (s : State) (h : s.Inv) (hreset : s.inReset = false) (hw : i.wellFormed = true) :
    (accepted i (enterOf i) (progOf i) s).Inv :=
  ⟨h.params, h.swclk, h.acks, h.dcount, h.cycles, h.canonical, h.inRange,
    ⟨⟨i, decode_encode hw⟩, legal_progOf h.params i _⟩, fun hin => absurd (hreset.symm.trans hin) (by decide)⟩

/-- Reset values meet the invariant under any legal parameters (10_state.md R52). -/
theorem inv_reset {p : Params} (hp : p.Legal) : ({ State.reset with params := p } : State).Inv where
  params := hp
  swclk := rfl
  acks := fun i _ => getLsbD_zero_high 32 i (Nat.zero_le i)
  dcount := capacity_pos hp
  cycles := rfl
  canonical := List.Pairwise.nil
  inRange := fun _ hc => nomatch hc
  engine := trivial
  reset := fun _ => rfl

/-- The parameters that State.reset describes are legal, whatever its free choices (00_scope.md R6). -/
theorem config_legal : Config.params.Legal := by
  have h := Nat.mod_lt Config.capacityChoice (show 262143 > 0 by decide)
  simp only [Params.Legal, Config.params, Config.dumpCapacity]
  omega

theorem inv_assertReset (s : State) (h : s.Inv) : (assertReset s).Inv :=
  have k := inv_reset h.params
  ⟨k.params, k.swclk, k.acks, k.dcount, k.cycles, k.canonical, k.inRange, k.engine, fun _ => rfl⟩

/-- Settles O51, from the ranges of the free parameters. -/
theorem resetMeetsInvariant : Obligations.ResetMeetsInvariant := inv_reset config_legal

/-- Settles O52: the engine keeps the invariant line by line, an access changes nothing it speaks of, and the acceptance
latches a word that decodes and starts a pseudocode of legal lines. -/
theorem stepKeepsInvariant : Obligations.StepKeepsInvariant := by
  intro s t h hst
  exact step_keeps (P := State.Inv) inv_engineStep (fun _ _ => inv_congr rfl) (fun _ _ => inv_congr rfl)
    (fun s off v => inv_congr (commandView_regWrite off v s)) (fun _ => inv_congr rfl) (fun _ => inv_congr rfl)
    (fun i s h hr _ hw => inv_accepted i s h hr hw) inv_assertReset
    (fun s h => ⟨h.params, h.swclk, h.acks, h.dcount, h.cycles, h.canonical, h.inRange, h.engine, nofun⟩) h hst

/-! ## Results and the wire -/

/-- Settles O9: a step after which the command still runs was no completion. -/
theorem resultsHeldUntilCompletion : Obligations.ResultsHeldUntilCompletion := by
  intro s hbusy
  obtain ⟨-, h⟩ | ⟨r, -, -, h⟩ | ⟨r, op, rest, -, -, h⟩ := engineStep_cases s
  · rw [h]
    exact ⟨rfl, rfl, rfl, rfl, rfl, rfl⟩
  · rw [h]
    exact ⟨rfl, rfl, rfl, rfl, rfl, rfl⟩
  · rw [h] at hbusy ⊢
    have hop : ∀ e, op ≠ .complete e := by
      rintro e rfl
      rw [runLine, busy_of_idle (complete_engine e _ s)] at hbusy
      nomatch hbusy
    obtain ⟨hrdata, hidcode, hacks, hdcount, hresult, hrecovered⟩ := runLine_holdsResults hop { r with prog := rest } s
    exact ⟨hrdata, hidcode, hacks, hdcount, hresult, hrecovered⟩

theorem runToEnd_wireGrows (s : State) : WireGrows s (runToEnd s) :=
  runToEnd_keeps (P := WireGrows s) (fun t h => h.trans (engineStep_wireGrows t)) (.of_eq rfl rfl)

theorem advance_wireGrows {s u : State} (h : WireGrows s u) : WireGrows s (advance u) :=
  advance_keeps (P := WireGrows s) (fun t h => h.trans (engineStep_wireGrows t)) (fun _ _ h => h) h

/-- Every event but the assertion of reset leaves Wire as it was or longer (10_state.md R41). -/
theorem lands_wireGrows {s u : State} {e : Event} (h : Lands s e u) (he : e ≠ .resetAssert) : WireGrows s u := by
  cases h with
  | engine => exact engineStep_wireGrows s
  | host hv => exact .of_commandView hv
  | wait b => exact runToEnd_wireGrows s
  | accepted i hi hw => exact .of_eq rfl rfl
  | completed i hi hw =>
    have hacc : WireGrows s (accepted i (enterOf i) (progOf i) (respond .written s)) := .of_eq rfl rfl
    exact hacc.trans (runToEnd_wireGrows _)
  | resetAssert => exact absurd rfl he
  | resetRelease => exact .of_eq rfl rfl

/-- Settles O53: every event but reset's assertion lets Wire grow counted, and so does the engine after it. -/
theorem wireGrowsAndIsCounted : Obligations.WireGrowsAndIsCounted := by
  intro s t hst hhead
  obtain ⟨-, rfl⟩ | ⟨e, rest, u, hs, hu, rfl⟩ := step_cases hst
  · exact advance_wireGrows (.of_eq rfl rfl)
  · have he : e ≠ .resetAssert := by
      rintro rfl
      exact hhead (by rw [hs]; rfl)
    exact advance_wireGrows (lands_wireGrows (s := { s with sched := rest }) hu he)

/-! ## The frame of each command -/

theorem commandFrame_refl (i : Instr) (s : State) : CommandFrame i s s :=
  ⟨⟨rfl, rfl, rfl, rfl, rfl, rfl⟩, ⟨rfl, fun _ => rfl⟩, fun _ => ⟨rfl, rfl⟩, fun _ => ⟨rfl, rfl⟩, fun _ _ _ _ => rfl,
    fun _ _ _ _ => rfl⟩

/-- A line of a command writes no register that is not the command's (10_state.md R34-R40, R44). -/
theorem commandFrame_runLine {i : Instr} {op : Op} (h : lineOf i op) {s t : State} (ht : CommandFrame i s t)
    (r : Running) : CommandFrame i s (runLine op r t) := by
  obtain ⟨hop, hst, hse, hd, hr, ha⟩ := ht
  cases op with
  | enterState x => exact ⟨hop, hst, fun hi => absurd h hi, hd, hr, ha⟩
  | storeWord k => exact ⟨hop, hst, hse, fun hi => absurd h hi, hr, ha⟩
  | complete e =>
    cases e with
    | plain => exact ⟨hop, hst, hse, hd, hr, ha⟩
    | value =>
      refine ⟨hop, hst, hse, hd, fun h1 h2 h3 _ => ?_, ha⟩
      obtain hi | ⟨n, hi⟩ | hi := h
      · exact absurd hi h1
      · exact absurd hi (h2 n)
      · exact absurd hi h3
    | xferRd =>
      obtain ⟨q, hi⟩ := h
      exact ⟨hop, hst, hse, hd, fun _ _ _ h4 => absurd hi (h4 q), fun _ _ h3 _ => absurd hi (h3 q)⟩
    | xferWr =>
      obtain ⟨q, hi⟩ := h
      exact ⟨hop, hst, hse, hd, hr, fun _ _ _ h4 => absurd hi (h4 q)⟩
    | session => exact ⟨hop, hst, fun hi => absurd h hi, hd, hr, fun h1 _ _ _ => absurd h h1⟩
    | capExceeded => exact ⟨hop, hst, hse, fun hi => absurd h hi, hr, ha⟩
    | dumpDone => exact ⟨hop, hst, hse, fun hi => absurd h hi, hr, fun _ h2 _ _ => absurd h h2⟩
    | dumpStopped => exact ⟨hop, hst, hse, fun hi => absurd h hi, hr, fun _ h2 _ _ => absurd h h2⟩
  | _ => exact ⟨hop, hst, hse, hd, hr, ha⟩

/-- t keeps the frame of command i since s, and what runs in it, if anything, are lines of i. -/
def FrameRun (i : Instr) (s t : State) : Prop :=
  CommandFrame i s t ∧ ∀ r, t.engine = .running r → ∀ o ∈ r.prog, lineOf i o

theorem frameRun_engineStep (i : Instr) (s t : State) (h : FrameRun i s t) : FrameRun i s (engineStep t) := by
  obtain ⟨hf, hl⟩ := h
  obtain ⟨-, ht⟩ | ⟨r, -, -, ht⟩ | ⟨r, op, rest, hr, hp, ht⟩ := engineStep_cases t
  · rw [ht]
    exact ⟨hf, hl⟩
  · rw [ht]
    exact ⟨⟨hf.operands, hf.sticky, hf.session, hf.dump, hf.rdata, hf.acks⟩, nofun⟩
  · have hlines := hl r hr
    rw [hp, List.forall_mem_cons] at hlines
    obtain ⟨hop, hrest⟩ := hlines
    rw [ht]
    exact ⟨commandFrame_runLine hop hf _, fun r' hr' => lineOf_runLine hr' hop hrest⟩

theorem frameRun_sched (i : Instr) (s t : State) (es : List Event) (h : FrameRun i s t) :
    FrameRun i s { t with sched := es } := by
  obtain ⟨⟨hop, hst, hse, hd, hr, ha⟩, hl⟩ := h
  exact ⟨⟨hop, hst, hse, hd, hr, ha⟩, hl⟩

theorem frameRun_accepted (i : Instr) (s : State) : FrameRun i s (accepted i (enterOf i) (progOf i) s) := by
  have hse : i ≠ .connect → (accepted i (enterOf i) (progOf i) s).sstate = s.sstate ∧ s.idcode = s.idcode := by
    intro hi
    cases i with
    | connect => exact absurd rfl hi
    | _ => exact ⟨rfl, rfl⟩
  obtain ⟨hop, hst, -, hd, hr, ha⟩ := commandFrame_refl i s
  refine ⟨⟨hop, hst, hse, hd, hr, ha⟩, fun r hr => ?_⟩
  obtain rfl := Engine.running.inj hr
  exact lineOf_progOf i s.params _

/-- Settles O54: the frame and the command's lines together are kept by the acceptance and by every engine step. -/
theorem commandsWriteOnlyTheirRegisters : Obligations.CommandsWriteOnlyTheirRegisters := by
  intro i s hi
  obtain ⟨t, hexec, ht⟩ : ∃ t, exec i s = .next t ∧ FrameRun i s t := by
    refine exec_keeps (frameRun_engineStep i s) (frameRun_sched i s) (fun hb => ?_) (fun _ hw => ?_)
      fun _ _ => frameRun_accepted i s
    · rw [busy_of_idle hi] at hb
      nomatch hb
    · obtain ⟨hop, ⟨hbusy, -⟩, hse, hd, hr, ha⟩ := commandFrame_refl i s
      refine ⟨⟨hop, ⟨hbusy, fun hw' => ?_⟩, hse, hd, hr, ha⟩, fun r hr => ?_⟩
      · rw [hw] at hw'
        nomatch hw'
      · rw [raiseErrCmd_engine, hi] at hr
        nomatch hr
  exact ⟨t, hexec, ht.1, (runToEnd_keeps (frameRun_engineStep i s) ht).1, runToEnd_engine t,
    fun n => (engineRun_keeps (frameRun_engineStep i s) n ht).1⟩

/-! ## Host accesses and the running command -/

/-- Settles O55: the engine does not see the fields a register write sets, and does not write those it reads. -/
theorem hostWritesCommuteWithEngine : Obligations.HostWritesCommuteWithEngine := by
  intro s off v
  have hs : regWrite off v s = withHostFields (regWrite off v s) s := (regWrite_of_leaves (.rfl' s) off v).symm
  constructor
  · calc engineStep (regWrite off v s) = withHostFields (regWrite off v s) (engineStep s) := by
          rw [← engineStep_withHostFields, ← hs]
      _ = regWrite off v (engineStep s) := regWrite_of_leaves (engineStep_leaves s) off v
  · calc runToEnd (regWrite off v s) = withHostFields (regWrite off v s) (runToEnd s) := by
          rw [← runToEnd_withHostFields, ← hs]
      _ = regWrite off v (runToEnd s) := regWrite_of_leaves (runToEnd_leaves s) off v

theorem regWrite_sched (off : Nat) (v : Word) (s : State) : (regWrite off v s).sched = s.sched := by
  unfold regWrite
  split
  · rfl
  split
  · rfl
  split <;> rfl

/-- A host access while a command runs: the host's fields only, whatever it is, or it waits for the command. -/
theorem access_view {s : State} (hb : s.busy = true) (hr : s.inReset = false) {e : Event} {off n : Nat} {v : Word}
    (he : e = .read off n ∨ e = .write off n v ∨ e = .wait) :
    ∃ u, stepEvent e s = .next (advance u) ∧ u.sched = s.sched ∧
      (commandView u = commandView s ∨ commandView u = commandView (runToEnd s)) := by
  have released : ∀ {o : Host.Outcome State Fault Refusal},
      (if s.inReset then .refused .accessDuringReset else o) = o := by simp [hr]
  obtain rfl | rfl | rfl := he
  · exact ⟨_, released, rfl, .inl rfl⟩
  · obtain hw | hw | ⟨-, -, hw⟩ := hostWrite_cases s off n v
    · exact ⟨respond .error s, by rw [stepEvent, released, hw], rfl, .inl rfl⟩
    · exact ⟨respond .written (regWrite off v s), by rw [stepEvent, released, hw],
        regWrite_sched off v s, .inl (commandView_regWrite off v s)⟩
    · refine ⟨raiseErrBusy (respond .written s), ?_, rfl, .inl rfl⟩
      rw [stepEvent, released, hw]
      dsimp only [commandWrite]
      split
      · exact exec_busy _ hb
      · rw [refuseWord, if_pos (show (respond .written s).busy = true from hb)]
  · exact ⟨_, released, (runToEnd_leaves s).sched, .inr rfl⟩

/-- Settles O56: the access lands in the host's fields, which the rest of the run does not see. -/
theorem hostAccessLeavesCommandAlone : Obligations.HostAccessLeavesCommandAlone := by
  intro s e off n v hb hr he
  obtain ⟨u, hu, hsched, hview⟩ := access_view (s := { s with sched := [] }) hb hr he
  refine ⟨advance u, (step_cons rfl).trans hu, ?_⟩
  rw [advance_nil hsched]
  refine ⟨runToEnd_engine u, ?_⟩
  have hnosched : commandView (runToEnd { s with sched := [] }) = commandView (runToEnd s) :=
    commandView_runToEnd_congr rfl
  obtain hview | hview := hview
  · exact (commandView_runToEnd_congr hview).trans hnosched
  · rw [commandView_runToEnd_congr hview, runToEnd_idle (runToEnd_engine _), hnosched]

/-! ## The acceptance -/

/-- With a host access next in the total order, the engine takes no step (20_memory.md R72). -/
theorem advance_read {s : State} {off n : Nat} {rest : List Event} (h : s.sched = .read off n :: rest) :
    advance s = s := by
  rw [advance, h, advanceOn, ← h]

/-- Every command but SETDIR, PARITY and a DUMP refused for capacity has a line that is more than a zero-cycle update
(10_state.md R29). -/
theorem progOf_not_cycleFree {i : Instr} {s : State} (hw : i.wellFormed = true) (hp : i ≠ .parity)
    (hd : ∀ d, i ≠ .setdir d) (hc : i = .dump → s.dlen.toNat < s.params.dumpCapacity) :
    (progOf i s.params (latchOf i s)).all Op.cycleFree = false := by
  have of_mem : ∀ {ops : List Op} {o : Op}, o ∈ ops → o.cycleFree = false → ops.all Op.cycleFree = false := by
    intro ops o ho hf
    exact List.all_eq_false.2 ⟨o, ho, by simp [hf]⟩
  cases i with
  | parity => exact absurd rfl hp
  | setdir d => exact absurd rfl (hd d)
  | wrbits n =>
    have hn : 1 ≤ n.toNat := of_decide_eq_true (Bool.and_eq_true_iff.1 hw).1
    refine of_mem (o := .writeBit (s.wdata.getLsbD 0)) (List.mem_append_left _ ?_) rfl
    rw [latch_count_wrbits]
    exact List.mem_map.2 ⟨0, List.mem_range.2 hn, rfl⟩
  | rdbits n =>
    have hn : 1 ≤ n.toNat := of_decide_eq_true (Bool.and_eq_true_iff.1 hw).1
    refine of_mem (o := .readBit (.value 0)) (List.mem_append_left _ ?_) rfl
    rw [latch_count_rdbits]
    exact List.mem_map.2 ⟨0, List.mem_range.2 hn, rfl⟩
  | connect =>
    exact of_mem (o := .enterState .lineReset) (List.mem_append_right _ List.mem_cons_self) rfl
  | dump =>
    have hlt : ¬ s.params.dumpCapacity ≤ (latchOf .dump s).byteCount := Nat.not_le_of_lt (hc rfl)
    rw [progOf, dumpProg, if_neg hlt]
    exact of_mem (o := .newTransaction) List.mem_cons_self rfl
  | _ => rfl

/-- CONNECT's acceptance enters WAKE, no other command's changes SSTATE (42_session.md R161). -/
theorem enterOf_getD (i : Instr) (x : SState) : (enterOf i).getD x = if i = .connect then .wake else x := by
  cases i <;> rfl

/-- Settles O8: accepted, the command makes a cycle, so that it is still at its first line when the read lands. -/
theorem acceptanceLatchesOperands : Obligations.AcceptanceLatchesOperands := by
  intro i s off n rest hw hi hs hp hd hc
  refine ⟨⟨latchOf i s, Shadow.start, progOf i s.params (latchOf i s)⟩, rfl, ?_⟩
  have hsched : (accepted i (enterOf i) (progOf i) s).sched = .read off n :: rest := hs
  rw [exec_accepted hi hw, progOf_not_cycleFree hw hp hd hc, if_neg Bool.false_ne_true, advance_read hsched,
    ← enterOf_getD]
  rfl

/-! ## The host window -/

/-- A 32-bit read where a register is gives the register (20_memory.md R61). -/
theorem hostRead_register {s : State} {off : Nat} {v : Word} (hoff : off < bufBase) (h : regRead s off = some v) :
    hostRead s off 4 = .data v := by
  rw [hostRead, if_pos hoff, h]
  rfl

/-- Settles O40: at each offset of R25 a register stands, below BUF. -/
theorem registersReadAtTheirOffsets : Obligations.RegistersReadAtTheirOffsets := by
  intro s
  have below : ∀ off, off < 0x030 → off < bufBase := fun off h => h.trans (by decide)
  refine ⟨?_, ?_, ?_, ?_, ?_, ?_, ?_, ?_, ?_, ?_, ?_, ?_⟩ <;> exact hostRead_register (below _ (by decide)) rfl

/-- A 32-bit write to a register other than CMD is that register's write, busy or not (20_memory.md R61, R64). -/
theorem step_regWrite {s : State} {off : Nat} {v w : Word} {rest : List Event} (hr : s.inReset = false)
    (hs : s.sched = .write off 4 v :: rest) (hreg : regRead { s with sched := rest } off = some w) (hoff : off ≠ offCmd) :
    step s = .next (advance (respond .written (regWrite off v { s with sched := rest }))) := by
  have hw : hostWrite { s with sched := rest } off 4 v = .done (regWrite off v { s with sched := rest }) := by
    rw [hostWrite, hreg]
    exact (if_pos rfl).trans (if_neg hoff)
  rw [step_write hr hs, hw]

/-- Settles O44: WDATA and DLEN are registers other than CMD, each written whole. -/
theorem operandWritesStore : Obligations.OperandWritesStore := by
  intro s v rest hr
  constructor
  · intro hs
    exact step_regWrite hr hs rfl (by decide)
  · intro hs
    exact step_regWrite hr hs rfl (by decide)

/-! ## STATUS, PINS and the PARAM registers, field by field -/

theorem statusWord_busy (s : State) : (statusWord s).getLsbD 0 = s.busy := by
  unfold statusWord
  rw [BitVec.getLsbD_append]
  simp

theorem statusWord_errCmd (s : State) : (statusWord s).getLsbD 1 = s.errCmd := by
  unfold statusWord
  rw [BitVec.getLsbD_append, BitVec.getLsbD_append]
  simp

theorem statusWord_errBusy (s : State) : (statusWord s).getLsbD 2 = s.errBusy := by
  unfold statusWord
  rw [BitVec.getLsbD_append, BitVec.getLsbD_append, BitVec.getLsbD_append]
  simp

theorem statusWord_recovered (s : State) : (statusWord s).getLsbD 3 = s.recovered := by
  unfold statusWord
  rw [BitVec.getLsbD_append, BitVec.getLsbD_append, BitVec.getLsbD_append, BitVec.getLsbD_append]
  simp

theorem statusWord_result (s : State) : (statusWord s).extractLsb' 4 4 = s.result.code := by
  unfold statusWord
  rw [BitVec.extractLsb'_append_eq_of_le (by decide), BitVec.extractLsb'_append_eq_of_le (by decide),
    BitVec.extractLsb'_append_eq_of_le (by decide), BitVec.extractLsb'_append_eq_of_le (by decide),
    BitVec.extractLsb'_append_eq_right]

theorem statusWord_sstate (s : State) : (statusWord s).extractLsb' 8 3 = s.sstate.code := by
  unfold statusWord
  rw [BitVec.extractLsb'_append_eq_of_le (by decide), BitVec.extractLsb'_append_eq_of_le (by decide),
    BitVec.extractLsb'_append_eq_of_le (by decide), BitVec.extractLsb'_append_eq_of_le (by decide),
    BitVec.extractLsb'_append_eq_of_le (by decide), BitVec.extractLsb'_append_eq_right]

theorem statusWord_high (s : State) : ∀ i, 11 ≤ i → (statusWord s).getLsbD i = false :=
  getLsbD_append_high (.ofBool s.busy) (getLsbD_append_high (.ofBool s.errCmd) (getLsbD_append_high (.ofBool s.errBusy)
    (getLsbD_append_high (.ofBool s.recovered) (getLsbD_append_high s.result.code
      (getLsbD_append_high s.sstate.code (getLsbD_zero_high 21))))))

/-- Each RESULT code is one result's (10_state.md R33). -/
theorem result_of_code (x : CmdResult) : (x.code = 0#4 ↔ x = .none) ∧ (x.code = 1#4 ↔ x = .ok) ∧
    (x.code = 2#4 ↔ x = .fail) ∧ (x.code = 3#4 ↔ x = .found) ∧ (x.code = 4#4 ↔ x = .notFound) ∧
    (x.code = 5#4 ↔ x = .capExceeded) := by
  cases x <;> decide

/-- Each SSTATE code is one state's (R34). -/
theorem sstate_of_code (x : SState) : (x.code = 0#3 ↔ x = .reset) ∧ (x.code = 1#3 ↔ x = .wake) ∧
    (x.code = 2#3 ↔ x = .lineReset) ∧ (x.code = 3#3 ↔ x = .modeSwitch) ∧ (x.code = 4#3 ↔ x = .lineReset2) ∧
    (x.code = 5#3 ↔ x = .idRequest) ∧ (x.code = 6#3 ↔ x = .found) ∧ (x.code = 7#3 ↔ x = .notFound) := by
  cases x <;> decide

/-- Settles O45: STATUS field by field, its codes by cases, and STATUS as the register written. -/
theorem statusFieldsAndClears : Obligations.StatusFieldsAndClears := by
  intro s
  rw [statusWord_result, statusWord_sstate]
  exact ⟨⟨statusWord_busy s, statusWord_errCmd s, statusWord_errBusy s, statusWord_recovered s, statusWord_high s⟩,
    result_of_code s.result, sstate_of_code s.sstate, fun v rest hr hs => step_regWrite hr hs rfl (by decide)⟩

theorem pinsWord_bits (s : State) : (pinsWord s).getLsbD 0 = s.swclk ∧
    (pinsWord s).getLsbD 1 = decide (s.dir = .out) ∧ (pinsWord s).getLsbD 2 = s.swdioO := by
  have hdir : s.dir.toBit = decide (s.dir = .out) := by cases s.dir <;> rfl
  unfold pinsWord
  refine ⟨?_, ?_, ?_⟩
  · rw [BitVec.getLsbD_append]
    simp
  · rw [BitVec.getLsbD_append, BitVec.getLsbD_append, hdir]
    simp
  · rw [BitVec.getLsbD_append, BitVec.getLsbD_append, BitVec.getLsbD_append]
    simp

theorem pinsWord_high (s : State) : ∀ i, 3 ≤ i → (pinsWord s).getLsbD i = false :=
  getLsbD_append_high (.ofBool s.swclk) (getLsbD_append_high (.ofBool s.dir.toBit)
    (getLsbD_append_high (.ofBool s.swdioO) (getLsbD_zero_high 29)))

/-- The fields of PARAM1, each modulo its width (R43). -/
theorem param1Word_fields (p : Params) : (param1Word p).extractLsb' 0 8 = BitVec.ofNat 8 p.lineResetHigh ∧
    (param1Word p).extractLsb' 8 8 = BitVec.ofNat 8 p.lineResetIdle ∧
    (param1Word p).extractLsb' 16 1 = BitVec.ofNat 1 p.wrTrn := by
  unfold param1Word
  refine ⟨BitVec.extractLsb'_append_eq_right, ?_, ?_⟩
  · rw [BitVec.extractLsb'_append_eq_of_le (by decide), BitVec.extractLsb'_append_eq_right]
  · rw [BitVec.extractLsb'_append_eq_of_le (by decide), BitVec.extractLsb'_append_eq_of_le (by decide),
      BitVec.extractLsb'_append_eq_right]

theorem param1Word_high (p : Params) : ∀ i, 17 ≤ i → (param1Word p).getLsbD i = false :=
  getLsbD_append_high (.ofNat 8 p.lineResetHigh) (getLsbD_append_high (.ofNat 8 p.lineResetIdle)
    (getLsbD_append_high (.ofNat 1 p.wrTrn) (getLsbD_zero_high 15)))

/-- Settles O46: the ranges of 00_scope.md R6 fit the fields. -/
theorem pinsAndParamsLayout : Obligations.PinsAndParamsLayout := by
  rintro s ⟨-, -, -, hcap, -, hhigh, hidle, htrn⟩
  obtain ⟨hswclk, hdir, hout⟩ := pinsWord_bits s
  obtain ⟨h0, h8, h16⟩ := param1Word_fields s.params
  refine ⟨⟨hswclk, hdir, hout, pinsWord_high s⟩, ?_, ?_, ?_, ?_, param1Word_high s.params⟩
  · rw [param0Word, BitVec.toNat_ofNat, Nat.mod_eq_of_lt (by omega)]
  · rw [h0, BitVec.toNat_ofNat, Nat.mod_eq_of_lt (by omega)]
  · rw [h8, BitVec.toNat_ofNat, Nat.mod_eq_of_lt (by omega)]
  · rw [h16, BitVec.toNat_ofNat, Nat.mod_eq_of_lt (by omega)]

/-- Settles O48: State.reset written out. -/
theorem resetValues : Obligations.ResetValues :=
  ⟨rfl, rfl, rfl, rfl, rfl, rfl, rfl, rfl, rfl, rfl, rfl, rfl, rfl, rfl⟩

end Sys2Proof.Proofs

/-! SUPPORT. The host window (spec/20_memory.md): what a read and a write at an offset are, the bytes of BUF, which
accesses are bus errors, and where the window stands in the host's address map. -/

namespace Sys2Proof.Proofs

open Sys2Proof.Machine Sys2Proof.Laws

/-! ## Reads -/

/-- The answer to a read does not depend on what is scheduled. -/
theorem hostRead_sched (s : State) (es : List Event) (off n : Nat) :
    hostRead { s with sched := es } off n = hostRead s off n := rfl

/-- Settles O39: the read is answered from the state it finds. -/
theorem hostReadHasNoSideEffect : Obligations.HostReadHasNoSideEffect := by
  intro s off n rest hr hs
  rw [step_read hr hs, hostRead_sched]

/-- A read at an offset of BUF is a read of BUF (R61, R62). -/
theorem hostRead_buf {s : State} {i : Nat} (hi : i < s.params.dumpCapacity) (n : Nat) :
    hostRead s (bufBase + i) n = bufRead s i n := by
  rw [hostRead, if_neg (Nat.not_lt.2 (Nat.le_add_right _ _)), if_pos (Nat.add_lt_add_left hi _), Nat.add_sub_cancel_left]

theorem bufRead_byte (s : State) (i : Nat) : bufRead s i 1 = .data ((bufByte s i).setWidth 32) := if_pos rfl

theorem bufRead_word (s : State) {i : Nat} (hi : i % 4 = 0) : bufRead s i 4 = .data (bufWord s i) :=
  (if_neg (by decide)).trans (if_pos ⟨rfl, hi⟩)

/-- Every read of BUF but those of a byte and of an aligned word (R63). -/
theorem bufRead_error (s : State) {i n : Nat} (hbyte : n ≠ 1) (hword : ¬ (n = 4 ∧ i % 4 = 0)) : bufRead s i n = .error :=
  (if_neg hbyte).trans (if_neg hword)

/-- Settles O41: a byte or an aligned word of BUF, read through the window. -/
theorem bufReadsLittleEndian : Obligations.BufReadsLittleEndian := by
  intro s i hi
  exact ⟨(hostRead_buf hi 1).trans (bufRead_byte s i), fun halign => (hostRead_buf hi 4).trans (bufRead_word s halign)⟩

/-! ## Stored words -/

/-- A byte of BUF after StoreWordBE, whichever it is (R68). -/
theorem bufByte_storeWordBE (k : Nat) (w : Word) (s : State) (i : Nat) :
    bufByte (storeWordBE k w s) i =
      if i = 4 * k + 3 then w.extractLsb' 0 8
      else if i = 4 * k + 2 then w.extractLsb' 8 8
      else if i = 4 * k + 1 then w.extractLsb' 16 8
      else if i = 4 * k then w.extractLsb' 24 8
      else bufByte s i := by
  simp only [bufByte, storeWordBE_buf, storeWordBE_bufEpoch, read_bufAfterStore, Nat.add_left_cancel_iff, Nat.add_zero]
  split_ifs <;> rfl

/-- Settles O38, byte by byte. -/
theorem storeWordIsBigEndian : Obligations.StoreWordIsBigEndian := by
  intro k w s
  refine ⟨?_, ?_, ?_, ?_, fun i hi => ?_⟩ <;> rw [bufByte_storeWordBE]
  · rw [if_neg (by omega), if_neg (by omega), if_neg (by omega), if_pos rfl]
  · rw [if_neg (by omega), if_neg (by omega), if_pos rfl]
  · rw [if_neg (by omega), if_pos rfl]
  · rw [if_pos rfl]
  · rw [if_neg (by omega), if_neg (by omega), if_neg (by omega), if_neg (by omega)]

/-- Settles O42: stored with the most significant byte first, read with the least significant byte first. -/
theorem dumpedWordReadsByteReversed : Obligations.DumpedWordReadsByteReversed := by
  intro s k w hk
  obtain ⟨h0, h1, h2, h3, -⟩ := storeWordIsBigEndian k w s
  have hin : 4 * k < (storeWordBE k w s).params.dumpCapacity := by
    rw [storeWordBE_params]
    omega
  obtain ⟨-, hword⟩ := bufReadsLittleEndian (storeWordBE k w s) (4 * k) hin
  rw [hword (Nat.mul_mod_right 4 k), h0, h1, h2, h3]

/-! ## Bus errors -/

/-- No access to a register: none is at the offset, or the access is not 32 bits wide (R61, R63). -/
def NoRegisterAccess (s : State) (off n : Nat) : Prop := regRead s off = none ∨ n ≠ 4

theorem hostWrite_error {s : State} {off n : Nat} (h : NoRegisterAccess s off n) (v : Word) :
    hostWrite s off n v = .error := by
  unfold hostWrite
  obtain h | h := h
  · rw [h]
  · split
    · exact if_neg h
    · rfl

theorem hostRead_error_below {s : State} {off n : Nat} (h : NoRegisterAccess s off n) (hoff : off < bufBase) :
    hostRead s off n = .error := by
  rw [hostRead, if_pos hoff]
  obtain h | h := h
  · rw [h]
  · split
    · exact if_neg h
    · rfl

theorem hostRead_error_above {s : State} {off : Nat} (h : bufBase + s.params.dumpCapacity ≤ off) (n : Nat) :
    hostRead s off n = .error := by
  rw [hostRead, if_neg (by omega), if_neg (by omega)]

theorem step_read_error {s : State} {off n : Nat} {rest : List Event} (hr : s.inReset = false)
    (hs : s.sched = .read off n :: rest) (he : hostRead s off n = .error) :
    step s = .next (advance { s with sched := rest, resp := .error }) := by
  rw [hostReadHasNoSideEffect s off n rest hr hs, he]

theorem step_write_error {s : State} {off n : Nat} {v : Word} {rest : List Event} (hr : s.inReset = false)
    (hs : s.sched = .write off n v :: rest) (h : NoRegisterAccess { s with sched := rest } off n) :
    step s = .next (advance { s with sched := rest, resp := .error }) := by
  rw [step_write hr hs, hostWrite_error h]
  rfl

/-- The read-only registers (10_state.md R51): a register other than CMD stands there, and writing it changes nothing. -/
theorem readOnly_register {off : Nat} (h : off ∈ [0x00C, 0x014, 0x018, 0x01C, 0x020, 0x024, 0x028, 0x02C]) (s : State) :
    (∃ w, regRead s off = some w) ∧ off ≠ offCmd ∧ ∀ v, regWrite off v s = s := by
  simp only [List.mem_cons, List.not_mem_nil, or_false] at h
  obtain rfl | rfl | rfl | rfl | rfl | rfl | rfl | rfl := h <;> exact ⟨⟨_, rfl⟩, by decide, fun _ => rfl⟩

/-- Settles O43: outside the registers and BUF nothing answers, a register answers aligned words only, BUF reads of bytes
and aligned words only, and no register is at an offset of BUF to be written. -/
theorem busErrorsChangeNothing : Obligations.BusErrorsChangeNothing := by
  intro s off n v rest hr
  refine ⟨fun hout hs => ?_, fun hlo hhi hn hs => ?_, fun hlo hs => ?_, fun hro hs => ?_⟩
  · have hno : ∀ t, NoRegisterAccess t off n := fun t =>
      if hn : n ≠ 4 then .inr hn else .inl (regRead_none t (by omega))
    have hread : hostRead s off n = .error := by
      by_cases hoff : off < bufBase
      · exact hostRead_error_below (hno s) hoff
      · refine hostRead_error_above ?_ n
        unfold bufBase at hoff ⊢
        omega
    exact hs.elim (fun hs => step_read_error hr hs hread) (fun hs => step_write_error hr hs (hno _))
  · obtain ⟨i, rfl⟩ : ∃ i, off = bufBase + i := Nat.exists_eq_add_of_le hlo
    refine step_read_error hr hs ((hostRead_buf (Nat.lt_of_add_lt_add_left hhi) n).trans ?_)
    unfold bufBase at hn
    exact bufRead_error s (by omega) (by omega)
  · exact step_write_error hr hs (.inl (regRead_none _ (.inl (by omega))))
  · obtain ⟨⟨w, hreg⟩, hcmd, hsame⟩ := readOnly_register hro { s with sched := rest }
    rw [step_regWrite hr hs hreg hcmd, hsame]
    rfl

/-! ## The wait -/

/-- Settles O47: the engine left to itself ends idle, and an idle engine reads as BUSY = 0. -/
theorem waitSeesCommandDone : Obligations.WaitSeesCommandDone := by
  intro s rest hr hs
  have hidle := runToEnd_engine { s with sched := rest }
  refine ⟨runToEnd { s with sched := rest }, _, hidle, rfl, rfl, ?_, step_wait hr hs⟩
  rw [statusWord_busy, busy_of_idle hidle]

/-! ## The place of the window in the host's map (R60) -/

theorem windowOffset_base_add (p : Params) (off : Nat) : windowOffset p (p.base + off) = some off := by
  rw [windowOffset, if_pos (Nat.le_add_right _ _), Nat.add_sub_cancel_left]

theorem windowOffset_below {p : Params} {addr : Nat} (h : addr < p.base) : windowOffset p addr = none :=
  if_neg (Nat.not_le.2 h)

theorem busRead_base_add (p : Params) (off n : Nat) : busRead p (p.base + off) n = [.read off n] := by
  rw [busRead, windowOffset_base_add]
  rfl

theorem busWrite_base_add (p : Params) (off n : Nat) (v : Word) : busWrite p (p.base + off) n v = [.write off n v] := by
  rw [busWrite, windowOffset_base_add]
  rfl

/-- No step changes the parameters (10_state.md R20). -/
theorem step_params {s t : State} (h : step s = .next t) : t.params = s.params :=
  step_keeps (P := fun u => u.params = s.params)
    (hp := fun u hu => (engineStep_params u).trans hu)
    (hs := fun _ _ hu => hu)
    (hr := fun _ _ hu => hu)
    (hw := fun u off v hu => (congrArg State.params (commandView_regWrite off v u)).trans hu)
    (hb := fun _ hu => hu)
    (hc := fun _ hu => hu)
    (ha := fun _ _ hu _ _ _ => hu)
    (hreset := fun _ hu => hu)
    (hrelease := fun _ hu => hu)
    rfl h

/-- Settles O60: an access at BASE + off is scheduled as the access at off, and what that does is known. -/
theorem windowStandsAtBase : Obligations.WindowStandsAtBase := by
  intro s
  refine ⟨fun off => ⟨rfl, windowOffset_base_add s.params off, fun hp => ?_⟩, fun addr => windowOffset_below,
    fun off n rest hr hs => ?_, fun v rest hr hs => ?_, fun t => step_params⟩
  · obtain ⟨hbase, -⟩ := hp
    omega
  · rw [busRead_base_add] at hs
    exact hostReadHasNoSideEffect s off n rest hr hs
  · rw [busWrite_base_add] at hs
    exact (operandWritesStore s v rest hr).1 hs

end Sys2Proof.Proofs

/-! SUPPORT. The command words (spec/30_encoding.md): when a word decodes, what its fields then hold, the command a CMD write
runs, and the fixed wire constants. -/

namespace Sys2Proof.Proofs

open Sys2Proof.Machine Sys2Proof.Laws

/-! ## A word from its row and its operand field -/

/-- The operand of i is the one the word c carries in i's operand field (R92, R94). -/
def OperandIn (c : Word) : Instr → Prop
  | .wrbit v => v = bBit c
  | .setdir d => d = Dir.ofBit (bBit c)
  | .wrbits n => n = nField c
  | .rdbits n => n = nField c
  | .xferRd r => r = bField c
  | .xferWr r => r = bField c
  | _ => True

theorem dirOfBit_injective : Function.Injective Dir.ofBit := by
  intro a b
  cases a <;> cases b <;> decide

/-- A command's own word carries its operand. -/
theorem operandIn_encode (i : Instr) : OperandIn (encode i) i := by
  cases i with
  | wrbit v => exact (latch_bit v State.reset).symm
  | setdir d => exact (latch_direction d State.reset).symm
  | wrbits n => exact (nField_encode_wrbits n).symm
  | rdbits n => exact (nField_encode_rdbits n).symm
  | xferRd r => exact (bField_encode_xferRd r).symm
  | xferWr r => exact (bField_encode_xferWr r).symm
  | _ => trivial

theorem rowOf_mem_opcodeMap (i : Instr) : rowOf i ∈ opcodeMap := by
  cases i <;> simp [rowOf, opcodeMap]

/-- A command's own word has the bits its row fixes (R93). -/
theorem encode_and_mask (i : Instr) : encode i &&& (rowOf i).mask = (rowOf i).value :=
  (fits_iff _ _).1 ((fits_encode i _ (rowOf_mem_opcodeMap i)).trans (decide_eq_true rfl))

/-- Words alike in a field are alike in each bit of it. -/
theorem getLsbD_eq_of_extractLsb' {c d : Word} {start len k : Nat} (h : c.extractLsb' start len = d.extractLsb' start len)
    (hlo : start ≤ k) (hhi : k < start + len) : c.getLsbD k = d.getLsbD k := by
  have hk := congrArg (BitVec.getLsbD · (k - start)) h
  simpa [Nat.add_sub_cancel' hlo, show k - start < len by omega] using hk

/-- Two words of one row are the same word when they agree in the bits the row leaves free. -/
theorem eq_of_row_of_free {r : OpRow} {c d : Word} (hc : c &&& r.mask = r.value) (hd : d &&& r.mask = r.value)
    (hfree : ∀ k, k < 32 → r.mask.getLsbD k = false → c.getLsbD k = d.getLsbD k) : c = d := by
  refine BitVec.eq_of_getLsbD_eq fun k hk => ?_
  cases hm : r.mask.getLsbD k with
  | false => exact hfree k hk hm
  | true =>
    have h := congrArg (BitVec.getLsbD · k) (hc.trans hd.symm)
    simpa [hm] using h

/-! ## The bits each mask of the opcode map leaves free (R93) -/

theorem free_none : ∀ k, k < 32 → (0xFFFFFFFF#32).getLsbD k ≠ false := by decide

theorem free_bBit : ∀ k, k < 32 → (0xFFFFFEFF#32).getLsbD k = false → k = 8 := by decide

theorem free_nField : ∀ k, k < 32 → (0xFFC0FFFF#32).getLsbD k = false → 16 ≤ k ∧ k < 16 + 6 := by decide

theorem free_bField : ∀ k, k < 32 → (0xFFFF00FF#32).getLsbD k = false → 8 ≤ k ∧ k < 8 + 8 := by decide

/-! ## A word has one command -/

/-- A row leaves only its command's operand field free, so words that carry the same operand agree there (R92, R93). -/
theorem free_bits_of_operandIn {c d : Word} {i : Instr} (hc : OperandIn c i) (hd : OperandIn d i) :
    ∀ k, k < 32 → (rowOf i).mask.getLsbD k = false → c.getLsbD k = d.getLsbD k := by
  intro k hk hfree
  have bit (h : bBit c = bBit d) (hm : (0xFFFFFEFF#32).getLsbD k = false) : c.getLsbD k = d.getLsbD k :=
    free_bBit k hk hm ▸ h
  have count (h : nField c = nField d) (hm : (0xFFC0FFFF#32).getLsbD k = false) : c.getLsbD k = d.getLsbD k :=
    (free_nField k hk hm).elim (getLsbD_eq_of_extractLsb' h)
  have byte (h : bField c = bField d) (hm : (0xFFFF00FF#32).getLsbD k = false) : c.getLsbD k = d.getLsbD k :=
    (free_bField k hk hm).elim (getLsbD_eq_of_extractLsb' h)
  cases i with
  | wrbit v => exact bit (hc.symm.trans hd) hfree
  | setdir e => exact bit (dirOfBit_injective (hc.symm.trans hd)) hfree
  | wrbits n => exact count (hc.symm.trans hd) hfree
  | rdbits n => exact count (hc.symm.trans hd) hfree
  | xferRd r => exact byte (hc.symm.trans hd) hfree
  | xferWr r => exact byte (hc.symm.trans hd) hfree
  | _ => exact absurd hfree (free_none k hk)

/-- A word of i's row that carries i's operand is the word of i. -/
theorem encode_eq_of_row {c : Word} {i : Instr} (hrow : c &&& (rowOf i).mask = (rowOf i).value) (hop : OperandIn c i) :
    encode i = c :=
  eq_of_row_of_free (encode_and_mask i) hrow (free_bits_of_operandIn (operandIn_encode i) hop)

/-! ## When a word decodes -/

/-- What a word that decodes is: a word of the command's row, carrying the operand, the count in range (R91). -/
theorem row_of_decode {c : Word} {i : Instr} (h : decode c = .ok i) :
    c &&& (rowOf i).mask = (rowOf i).value ∧ OperandIn c i ∧ i.wellFormed = true := by
  obtain ⟨hf, rfl⟩ | ⟨hf, rfl⟩ | ⟨hf, rfl⟩ | ⟨hf, rfl⟩ | ⟨hf, hn, rfl⟩ | ⟨hf, hn, rfl⟩ | ⟨hf, rfl⟩ | ⟨hf, rfl⟩ | ⟨hf, rfl⟩ |
    ⟨hf, rfl⟩ | ⟨hf, rfl⟩ := decode_ok_cases h
  · exact ⟨hf, trivial, rfl⟩
  · exact ⟨hf, trivial, rfl⟩
  · exact ⟨hf, rfl, rfl⟩
  · exact ⟨hf, rfl, rfl⟩
  · exact ⟨hf, rfl, hn⟩
  · exact ⟨hf, rfl, hn⟩
  · exact ⟨hf, trivial, rfl⟩
  · exact ⟨hf, trivial, rfl⟩
  · exact ⟨hf, rfl, rfl⟩
  · exact ⟨hf, rfl, rfl⟩
  · exact ⟨hf, trivial, rfl⟩

/-- Settles O1: the word of a command fits its own row alone, and each operand comes back out of its field. -/
theorem decodeOfEncode : Obligations.DecodeOfEncode := fun _ => decode_encode

/-- Settles O2: the row fixes every bit outside the operand field, and the operand fixes those. -/
theorem encodeOfDecode : Obligations.EncodeOfDecode := by
  intro c i h
  obtain ⟨hrow, hop, hwf⟩ := row_of_decode h
  exact ⟨hwf, encode_eq_of_row hrow hop⟩

/-- A word of a well-formed command's row that carries its operand decodes to it. -/
theorem decode_of_row {c : Word} {i : Instr} (hrow : c &&& (rowOf i).mask = (rowOf i).value) (hop : OperandIn c i)
    (hwf : i.wellFormed = true) : decode c = .ok i := by
  rw [← encode_eq_of_row hrow hop]
  exact decode_encode hwf

theorem countLegal_iff (n : BitVec 6) : countLegal n = true ↔ 1 ≤ n.toNat ∧ n.toNat ≤ 32 := by
  simp [countLegal]

/-- The count test of R91, which only the rows of WRBITS and RDBITS make, passes where the command is well formed. -/
theorem wellFormed_iff_count {c : Word} {i : Instr} (hop : OperandIn c i) :
    i.wellFormed = true ↔
      (rowOf i = rowWrbits ∨ rowOf i = rowRdbits → 1 ≤ (nField c).toNat ∧ (nField c).toNat ≤ 32) := by
  cases i with
  | wrbits n =>
    obtain rfl : n = nField c := hop
    exact (countLegal_iff _).trans ⟨fun h _ => h, fun h => h (.inl rfl)⟩
  | rdbits n =>
    obtain rfl : n = nField c := hop
    exact (countLegal_iff _).trans ⟨fun h _ => h, fun h => h (.inr rfl)⟩
  | _ => exact ⟨fun _ h => absurd h (of_decide_eq_false rfl), fun _ => rfl⟩

/-- Every row of the opcode map is some command's, with the operand that any given word carries there (R93). -/
theorem exists_command_of_row (c : Word) {r : OpRow} (hr : r ∈ opcodeMap) : ∃ i, rowOf i = r ∧ OperandIn c i := by
  have row (i : Instr) (hi : OperandIn c i) : ∃ j, rowOf j = rowOf i ∧ OperandIn c j := ⟨i, rfl, hi⟩
  simp only [opcodeMap, List.mem_cons, List.not_mem_nil, or_false] at hr
  obtain rfl | rfl | rfl | rfl | rfl | rfl | rfl | rfl | rfl | rfl | rfl := hr
  · exact row .pulse trivial
  · exact row .rdbit trivial
  · exact row (.wrbit (bBit c)) rfl
  · exact row (.setdir (Dir.ofBit (bBit c))) rfl
  · exact row (.wrbits (nField c)) rfl
  · exact row (.rdbits (nField c)) rfl
  · exact row .parity trivial
  · exact row .connect trivial
  · exact row (.xferRd (bField c)) rfl
  · exact row (.xferWr (bField c)) rfl
  · exact row .dump trivial

/-- Settles O3: a word that decodes is of its command's row; a word of a row decodes to the command of that row. -/
theorem decoderAcceptsLegalWords : Obligations.DecoderAcceptsLegalWords := by
  intro c
  constructor
  · rintro ⟨i, h⟩
    obtain ⟨hrow, hop, hwf⟩ := row_of_decode h
    exact ⟨rowOf i, rowOf_mem_opcodeMap i, hrow, (wellFormed_iff_count hop).1 hwf⟩
  · rintro ⟨r, hr, hrow, hcount⟩
    obtain ⟨i, rfl, hop⟩ := exists_command_of_row c hr
    exact ⟨i, decode_of_row hrow hop ((wellFormed_iff_count hop).2 hcount)⟩

/-- Settles O4: each accepted word is the word of the command the table names; the three refused words are computed. -/
theorem specWordsDecode : Obligations.SpecWordsDecode :=
  ⟨decode_encode (i := .pulse) rfl, decode_encode (i := .wrbit true) rfl, decode_encode (i := .setdir .out) rfl,
    decode_encode (i := .wrbits 32#6) rfl, decode_encode (i := .rdbits 32#6) rfl, decode_encode (i := .parity) rfl,
    decode_encode (i := .connect) rfl, decode_encode (i := .xferRd 0x9F#8) rfl, decode_encode (i := .xferWr 0x8B#8) rfl,
    decode_encode (i := .dump) rfl, by decide, by decide, by decide⟩

/-! ## The CMD write -/

theorem commandWrite_of_decode {c : Word} {i : Instr} (h : decode c = .ok i) (s : State) : commandWrite c s = exec i s := by
  rw [commandWrite, h]

/-- Settles O5: the step is the command write, and that is the decoded command's. -/
theorem stepRunsDecodedCommand : Obligations.StepRunsDecodedCommand := by
  intro s c i rest hr hs hd
  rw [step_cmd hr hs, commandWrite_of_decode hd]

/-! ## The fixed wire constants (R101) -/

/-- Sent LSB first, the alert is the bits of its reversal from the most significant on (95_test_vectors.md 1.1). -/
theorem alert_getLsbD_eq_getMsbD :
    ∀ i, i < 128 → alert.getLsbD i = (0x49CF9046A9B4A16197F5BBC745703D98#128).getMsbD i := by
  decide

theorem sent_abortPayload :
    sent abortPayload 32 = [false, true, true, true, true].map wireW ++ List.replicate 27 (wireW false) := by
  decide

/-- The bits of a zero value are all driven 0. -/
theorem sent_zero (w n : Nat) : sent (0#w) n = List.replicate n (wireW false) := by
  simp [sent]

/-- Four set bits, an even number (41_codec.md R142). -/
theorem parity_abortPayload : Machine.parity abortPayload = false := by decide

theorem parity_selectPayload : Machine.parity selectPayload = false := by decide

/-- Settles O59: each constant written out, and its bits one by one. -/
theorem fixedWireConstants : Obligations.FixedWireConstants := by
  refine ⟨⟨rfl, rfl, rfl, rfl, rfl, rfl, rfl, rfl, rfl, rfl, rfl⟩, alert_getLsbD_eq_getMsbD, ?activation, ?modeSwitch,
    ?reqId, ?reqAbort, ?reqSelect, ?reqAddress, ?reqData, sent_abortPayload, sent_zero 32 32, parity_abortPayload,
    parity_selectPayload, sent_zero 32 4, ?ackOk, fun _ => rfl⟩
  all_goals rfl

end Sys2Proof.Proofs

/-! SUPPORT. The commands that run one bit I/O primitive (spec/40_bit_io.md): what each does from an idle engine, and what a
WRBIT leaves for the SETDIR and the PULSE after it. -/

namespace Sys2Proof.Proofs

open Sys2Proof.Machine Sys2Proof.Laws

/-! ## The pieces of a one-bit command -/

theorem drives_eq_ite (d : Dir) (o : Bool) : drives d o = if d = .out then some o else none := by
  cases d <;> rfl

/-- One sampled bit in a value that starts at 0 is the bit zero-extended (R125). -/
theorem take_start_value (b : Bool) : (Shadow.start.take b (.value 0)).value = if b then 1#32 else 0#32 := by
  cases b <;> decide

/-! ## PULSE, RDBIT, WRBIT: one cycle -/

/-- PULSE on an idle engine (R124). -/
theorem exec_pulse_quiet {s : State} (hq : Quiet s) :
    exec .pulse s =
      .next { ran s s.dir s.swdioO [{ drv := drives s.dir s.swdioO, smp := none }] 0 with
        result := .none, recovered := false } := by
  rw [exec_quiet hq rfl rfl, progOf, runToEnd_pulseClock, pulseClock_eq_ran, runToEnd_complete, complete_plain]
  exact hq.1

/-- RDBIT on an idle engine (R125). -/
theorem exec_rdbit_quiet {s : State} (hq : Quiet s) :
    exec .rdbit s =
      .next { ran s s.dir s.swdioO [{ drv := drives s.dir s.swdioO, smp := some (drawAt s 0) }] 1 with
        rdata := if drawAt s 0 then 1#32 else 0#32, result := .none, recovered := false } := by
  rw [exec_quiet hq rfl rfl, progOf, runToEnd_readBit, readBit_eq_ran, runToEnd_complete, complete_value, sample,
    take_start_value]
  exact hq.1

/-- WRBIT v on an idle engine: the bit comes back out of the latch (R126). -/
theorem exec_wrbit_quiet {s : State} (hq : Quiet s) (v : Bool) :
    exec (.wrbit v) s =
      .next { ran s s.dir v [{ drv := drives s.dir v, smp := none }] 0 with result := .none, recovered := false } := by
  rw [exec_quiet hq rfl rfl, progOf, latch_bit, runToEnd_writeBit, writeBit_eq_ran, runToEnd_complete, complete_plain]
  exact hq.1

/-! ## SETDIR: no cycle -/

/-- SETDIR, once accepted by an idle engine, run to its completion (R127). -/
theorem runToEnd_accepted_setdir {s : State} (hi : s.engine = .idle) (d : Dir) :
    runToEnd (accepted (.setdir d) (enterOf (.setdir d)) (progOf (.setdir d)) s) =
      { s with dir := d, result := .none, recovered := false } := by
  have henter : enterOf (.setdir d) = none := rfl
  rw [henter, accepted_eq, progOf, latch_direction, runToEnd_setDirection, runToEnd_complete, complete_plain]
  · rfl
  · exact hi

/-- SETDIR has only cycle-free lines, so it completes inside the CMD write, whatever is scheduled (10_state.md R29). -/
theorem exec_setdir_idle {s : State} (hi : s.engine = .idle) (d : Dir) :
    exec (.setdir d) s = .next (advance { s with dir := d, result := .none, recovered := false }) := by
  have hfree : (progOf (.setdir d) s.params (latchOf (.setdir d) s)).all Op.cycleFree = true := rfl
  rw [exec_accepted hi rfl, if_pos hfree, runToEnd_accepted_setdir hi]

/-- With no host access to come, the write is all there is of it. -/
theorem exec_setdir_quiet {s : State} (hq : Quiet s) (d : Dir) :
    exec (.setdir d) s = .next { s with dir := d, result := .none, recovered := false } := by
  have hd : Quiet { s with dir := d, result := .none, recovered := false } := hq
  rw [exec_setdir_idle hq.1, advance_nil hd.2, runToEnd_idle hd.1]

/-- A SETDIR OUT puts SWDIO_O on the line, whatever DIR was, and the next cycle shows it (R126, R127). -/
theorem exec_setdir_out_pulse {t : State} (hq : Quiet t) :
    ∃ u w, exec (.setdir .out) t = .next u ∧ driven u = some t.swdioO ∧ exec .pulse u = .next w ∧
      w.wire = t.wire ++ [wireW t.swdioO] := by
  have hu : Quiet { t with dir := .out, result := .none, recovered := false } := hq
  exact ⟨_, _, exec_setdir_quiet hq .out, rfl, exec_pulse_quiet hu, rfl⟩

/-! ## The obligations -/

/-- Settles O12: PULSE is one `PulseClock()`, then a completion that writes RESULT and RECOVERED only. -/
theorem pulseMakesOneCycle : Obligations.PulseMakesOneCycle := by
  refine ⟨rfl, fun s hq => ?_⟩
  rw [exec_pulse_quiet hq, drives_eq_ite]

/-- Settles O13: RDBIT is one `ReadBit()` of the next draw, and that draw is what its completion writes to RDATA. -/
theorem rdbitSamplesOneBit : Obligations.RdbitSamplesOneBit := by
  refine ⟨rfl, ?_⟩
  rintro s _ hq rfl
  rw [exec_rdbit_quiet hq, drives_eq_ite]

/-- Settles O14: WRBIT v leaves SWDIO_O = v, which SETDIR keeps, so with DIR = OUT the next PULSE drives it. -/
theorem wrbitSetsOutputAndCycles : Obligations.WrbitSetsOutputAndCycles := by
  refine ⟨⟨rfl, rfl⟩, fun v s hq => ?_⟩
  have hv := exec_wrbit_quiet hq v
  rw [drives_eq_ite] at hv
  have ht : Quiet { ran s s.dir v [{ drv := if s.dir = .out then some v else none, smp := none }] 0 with
    result := .none, recovered := false } := hq
  obtain ⟨u, w, hsetdir, hdriven, hpulse, hwire⟩ := exec_setdir_out_pulse ht
  exact ⟨hv, _, u, w, hv, hsetdir, hdriven, hpulse, hwire⟩

/-- Settles O15: on an idle engine SETDIR completes inside the write; with nothing scheduled no step follows it. -/
theorem setdirCompletesInsideWrite : Obligations.SetdirCompletesInsideWrite :=
  ⟨⟨rfl, rfl⟩, fun d _ hi => ⟨exec_setdir_idle hi d, fun hs => exec_setdir_quiet ⟨hi, hs⟩ d⟩⟩

end Sys2Proof.Proofs

/-! SUPPORT. The bit-sequence codec (spec/41_codec.md): the words of WRBITS and RDBITS, what WRBITS, RDBITS and PARITY do from
an idle engine, and parity as an exclusive or. -/

namespace Sys2Proof.Proofs

open Sys2Proof.Machine Sys2Proof.Laws

/-! ## The words with a count (30_encoding.md R92) -/

/-- The word of a command with no B field: its OP and N fields do not overlap, and neither byte nor count has bits above
its own width. -/
theorem commandWord_count (op : Byte) (n : BitVec 6) :
    commandWord op 0#8 n = op.setWidth 32 ||| n.setWidth 32 <<< 16 := by
  apply BitVec.eq_of_getLsbD_eq
  intro k hk
  simp only [commandWord, BitVec.getLsbD_append, BitVec.getLsbD_or, BitVec.getLsbD_shiftLeft, BitVec.getLsbD_setWidth]
  have hop : 8 ≤ k → op.getLsbD k = false := BitVec.getLsbD_of_ge op k
  have hn : 6 ≤ k - 16 → n.getLsbD (k - 16) = false := BitVec.getLsbD_of_ge n (k - 16)
  have hsub : k - 8 - 8 = k - 16 := by omega
  rw [hsub]
  by_cases h8 : k < 8
  · simp [h8, hk, show k < 16 by omega]
  · rw [hop (by omega)]
    grind

/-! ## WRBITS and RDBITS: n cycles -/

/-- WRBITS n on an idle engine (R143). -/
theorem exec_wrbits_quiet {n : BitVec 6} {s : State} (h1 : 1 ≤ n.toNat) (h32 : n.toNat ≤ 32) (hq : Quiet s) :
    exec (.wrbits n) s =
      .next { ran s s.dir (s.wdata.getLsbD (n.toNat - 1))
          ((List.range n.toNat).map fun i => { drv := drives s.dir (s.wdata.getLsbD i), smp := none }) 0 with
        result := .none, recovered := false } := by
  have hn : n.toNat = n.toNat - 1 + 1 := by omega
  have hw : (Instr.wrbits n).wellFormed = true := (countLegal_iff n).2 ⟨h1, h32⟩
  rw [exec_quiet hq hw rfl, progOf, latch_count_wrbits, latch_value, hn,
    runToEnd_writeBits_first, ← hn, runToEnd_complete, complete_plain]
  exact hq.1

/-- RDBITS n on an idle engine, the draws being the bits of v, which has no others (R144). -/
theorem exec_rdbits_quiet {n : BitVec 6} {v : Word} {s : State} (h1 : 1 ≤ n.toNat) (h32 : n.toNat ≤ 32) (hq : Quiet s)
    (hv : DrawsAre s 0 v n.toNat) (hhigh : ∀ i, n.toNat ≤ i → v.getLsbD i = false) :
    exec (.rdbits n) s =
      .next { ran s s.dir s.swdioO
          ((List.range n.toNat).map fun i => { drv := drives s.dir s.swdioO, smp := some (v.getLsbD i) }) n.toNat with
        rdata := v, result := .none, recovered := false } := by
  have hn : n.toNat = n.toNat - 1 + 1 := by omega
  have hread : (takeDraws s .value n.toNat Shadow.start).value = v := by
    rw [takeDraws_value]
    exact foldl_setBit_eq _ _ _ (drawsAre_zero hv) hhigh
  have hcycles : ((List.range n.toNat).map fun i => ({ drv := drives s.dir s.swdioO, smp := some (drawAt s i) } : Cycle)) =
      (List.range n.toNat).map fun i => { drv := drives s.dir s.swdioO, smp := some (v.getLsbD i) } :=
    List.map_congr_left fun i hi => by rw [drawsAre_zero hv i (List.mem_range.1 hi)]
  have hw : (Instr.rdbits n).wellFormed = true := (countLegal_iff n).2 ⟨h1, h32⟩
  rw [exec_quiet hq hw rfl, progOf, latch_count_rdbits, hn,
    runToEnd_readBits_first, ← hn, hcycles, runToEnd_complete, complete_value, hread]
  exact hq.1

/-! ## PARITY: no cycle -/

theorem runToEnd_parityOfWdata (l : Latch) (h : Shadow) (rest : List Op) (s : State) :
    runToEnd (resume ⟨l, h, .parityOfWdata :: rest⟩ s) =
      runToEnd (resume ⟨l, { h with value := zextBit (parity l.value) }, rest⟩ s) := by
  rw [runToEnd_line]
  rfl

theorem zextBit_parity (v : Word) : zextBit (parity v) = if popcount v % 2 = 1 then 1#32 else 0#32 := by
  simp [zextBit, parity]

/-- PARITY, once accepted by an idle engine, run to its completion (R145). -/
theorem runToEnd_accepted_parity {s : State} (hi : s.engine = .idle) :
    runToEnd (accepted .parity (enterOf .parity) (progOf .parity) s) =
      { s with rdata := zextBit (parity s.wdata), result := .none, recovered := false } := by
  rw [show enterOf .parity = none from rfl, accepted_eq, progOf, runToEnd_parityOfWdata, runToEnd_complete,
    complete_value _ hi, latch_value]

/-- PARITY has only cycle-free lines, so it completes inside the CMD write, whatever is scheduled (10_state.md R29). -/
theorem exec_parity_idle {s : State} (hi : s.engine = .idle) :
    exec .parity s =
      .next (advance { s with rdata := zextBit (parity s.wdata), result := .none, recovered := false }) := by
  have hfree : (progOf .parity s.params (latchOf .parity s)).all Op.cycleFree = true := rfl
  rw [exec_accepted hi rfl, if_pos hfree, runToEnd_accepted_parity hi]

/-- With no host access to come, the write is all there is of it. -/
theorem exec_parity_quiet {s : State} (hq : Quiet s) :
    exec .parity s = .next { s with rdata := zextBit (parity s.wdata), result := .none, recovered := false } := by
  have hd : Quiet { s with rdata := zextBit (parity s.wdata), result := .none, recovered := false } := hq
  rw [exec_parity_idle hq.1, advance_nil hd.2, runToEnd_idle hd.1]

/-! ## Parity as an exclusive or (R142) -/

/-- One more 1 bit flips the parity of a count, a 0 bit does not. -/
theorem odd_add_bit (k : Nat) (b : Bool) : ((k + if b then 1 else 0) % 2 == 1) = ((k % 2 == 1) ^^ b) := by
  cases b with
  | false => simp
  | true => rcases Nat.mod_two_eq_zero_or_one k with h | h <;> simp [Nat.add_mod, h]

/-- The parity of the number of members that satisfy p, accumulated along the list. -/
theorem foldl_xor_eq_odd_countP {α : Type} (p : α → Bool) (l : List α) :
    l.foldl (fun b x => b ^^ p x) false = (l.countP p % 2 == 1) := by
  induction l using List.reverseRecOn with
  | nil => rfl
  | append_singleton l x ih =>
    rw [List.foldl_append, List.foldl_cons, List.foldl_nil, ih, List.countP_append, List.countP_singleton, odd_add_bit]

/-! ## Over a loopback target (R146) -/

/-- The low n bits of a word, the rest 0. -/
def lowBits (n : Nat) (v : Word) : Word := (v.setWidth n).setWidth 32

theorem getLsbD_lowBits (n : Nat) (v : Word) (i : Nat) :
    (lowBits n v).getLsbD i = (decide (i < n) && v.getLsbD i) := by
  by_cases hi : i < 32
  · simp [lowBits, hi]
  · simp [lowBits, hi, BitVec.getLsbD_of_ge v i (by omega)]

theorem got_lowBits (n : Nat) (v : Word) : got (lowBits n v) n = got v n :=
  List.map_congr_left fun i hi => by simp [getLsbD_lowBits, List.mem_range.1 hi]

/-- WRBITS n with the line driven, then SETDIR IN: the n driven cycles, no draw taken. -/
theorem exec_wrbits_setdir_inp {n : BitVec 6} {s : State} (h1 : 1 ≤ n.toNat) (h32 : n.toNat ≤ 32) (hq : Quiet s)
    (hd : s.dir = .out) :
    ∃ t u, exec (.wrbits n) s = .next t ∧ exec (.setdir .inp) t = .next u ∧ Quiet u ∧ u.dir = .inp ∧
      (∀ i, drawAt u i = drawAt s i) ∧ u.wire = s.wire ++ sent s.wdata n.toNat := by
  obtain ⟨t, hwrite, ht, hdraws, hwire⟩ : ∃ t, exec (.wrbits n) s = .next t ∧ Quiet t ∧
      (∀ i, drawAt t i = drawAt s i) ∧ t.wire = s.wire ++ sent s.wdata n.toNat := by
    have hwrite := exec_wrbits_quiet h1 h32 hq
    rw [hd] at hwrite
    exact ⟨_, hwrite, hq, drawAt_congr rfl (by simp), rfl⟩
  exact ⟨t, _, hwrite, exec_setdir_quiet ht .inp, ht, rfl, hdraws, hwire⟩

/-- RDBITS n with the line released and the low n bits of v to come. -/
theorem exec_rdbits_lowBits {n : BitVec 6} {v : Word} {s : State} (h1 : 1 ≤ n.toNat) (h32 : n.toNat ≤ 32) (hq : Quiet s)
    (hd : s.dir = .inp) (hv : ∀ i, i < n.toNat → drawAt s i = v.getLsbD i) :
    exec (.rdbits n) s =
      .next { ran s s.dir s.swdioO (got v n.toNat) n.toNat with
        rdata := lowBits n.toNat v, result := .none, recovered := false } := by
  have hdraws : DrawsAre s 0 (lowBits n.toNat v) n.toNat := fun i hi => by
    rw [Nat.zero_add, hv i hi, getLsbD_lowBits, decide_eq_true hi, Bool.true_and]
  have hhigh : ∀ i, n.toNat ≤ i → (lowBits n.toNat v).getLsbD i = false := fun i hi => by
    rw [getLsbD_lowBits, decide_eq_false (Nat.not_lt.2 hi), Bool.false_and]
  rw [exec_rdbits_quiet h1 h32 hq hdraws hhigh, ← got_lowBits, hd]
  rfl

/-! ## The obligations -/

/-- Settles O16: WRBITS n is `WriteBits(L_WDATA, n)`, then a completion that writes RESULT and RECOVERED only. -/
theorem wrbitsSendsLowBitsFirst : Obligations.WrbitsSendsLowBitsFirst := by
  intro n s h1 h32 hq
  refine ⟨commandWord_count 0x05#8 n, ?_⟩
  simp only [exec_wrbits_quiet h1 h32 hq, drives_eq_ite]

/-- Settles O17: RDBITS n is `ReadBits(n)`, which sets bit i of a value that starts at 0 to the i-th draw. -/
theorem rdbitsAssemblesLsbFirst : Obligations.RdbitsAssemblesLsbFirst := by
  intro n v s h1 h32 hq hv hhigh
  refine ⟨commandWord_count 0x06#8 n, ?_⟩
  rw [exec_rdbits_quiet h1 h32 hq hv hhigh, drives_eq_ite]

/-- Settles O19: along the 32 bits, a 1 flips the parity of the count so far as it flips the exclusive or. -/
theorem parityIsXorOfBits : Obligations.ParityIsXorOfBits := fun v =>
  (foldl_xor_eq_odd_countP v.getLsbD (List.range 32)).symm

/-- Settles O20: WRBITS takes no draw and SETDIR makes no cycle, so RDBITS samples the target's next n bits. -/
theorem loopbackRoundTrip : Obligations.LoopbackRoundTrip := by
  intro n s h1 h32 hq hout hloop
  obtain ⟨t, u, hwrite, hsetdir, hu, hdir, hdraws, hwire⟩ := exec_wrbits_setdir_inp h1 h32 hq hout
  have hread := exec_rdbits_lowBits h1 h32 hu hdir fun i hi => (hdraws i).trans (hloop i hi)
  refine ⟨t, u, _, hwrite, hsetdir, hread, getLsbD_lowBits n.toNat s.wdata, ?_⟩
  simp only [ran_wire, hwire, List.append_assoc]

/-- Settles O18: on an idle engine PARITY completes inside the write; with nothing scheduled no step follows it. -/
theorem parityCompletesInsideWrite : Obligations.ParityCompletesInsideWrite := by
  refine ⟨rfl, fun s hi => ?_⟩
  rw [← zextBit_parity]
  exact ⟨exec_parity_idle hi, fun hs => exec_parity_quiet ⟨hi, hs⟩⟩

end Sys2Proof.Proofs

/-! SUPPORT. The session (spec/42_session.md): the session invariant line by line, and CONNECT from its acceptance to its
completion. -/

namespace Sys2Proof.Proofs

open Sys2Proof.Machine Sys2Proof.Laws

/-! ## Lines that stay in their session state -/

/-- A line of a session that enters no state and does not complete it. -/
def staysInSession (o : Op) : Bool := o.inSession && o.leavesSession

theorem inSession_of_staysInSession {o : Op} (h : staysInSession o = true) : o.inSession = true :=
  (Bool.and_eq_true_iff.1 h).1

theorem leavesSession_of_staysInSession {o : Op} (h : staysInSession o = true) : o.leavesSession = true :=
  (Bool.and_eq_true_iff.1 h).2

theorem staysInSession_writeBits {w : Nat} (v : BitVec w) (n : Nat) : ∀ o ∈ writeBits v n, staysInSession o = true :=
  List.forall_mem_map.2 fun _ _ => rfl

theorem staysInSession_readBits (dst : Nat → ReadDst) (n : Nat) : ∀ o ∈ readBits dst n, staysInSession o = true :=
  List.forall_mem_map.2 fun _ _ => rfl

theorem staysInSession_replicate {o : Op} (h : staysInSession o = true) (n : Nat) :
    ∀ o' ∈ List.replicate n o, staysInSession o' = true :=
  fun _ ho => List.eq_of_mem_replicate ho ▸ h

theorem staysInSession_lineReset (p : Params) : ∀ o ∈ lineReset p, staysInSession o = true :=
  List.forall_mem_append.2 ⟨staysInSession_replicate rfl _, staysInSession_replicate rfl _⟩

theorem staysInSession_wake : ∀ o ∈ wake, staysInSession o = true := by
  simp only [wake, idleBits4, List.forall_mem_cons, List.forall_mem_append]
  exact ⟨rfl, staysInSession_writeBits _ 32, staysInSession_writeBits _ 32, staysInSession_writeBits _ 32,
    staysInSession_writeBits _ 32, staysInSession_writeBits _ 4, staysInSession_writeBits activation 8⟩

theorem staysInSession_modeSwitch : ∀ o ∈ modeSwitch, staysInSession o = true :=
  staysInSession_writeBits modeSwitchSeq 16

theorem staysInSession_idRequest : ∀ o ∈ idRequest, staysInSession o = true := by
  simp only [idRequest, request, List.forall_mem_cons, List.forall_mem_append]
  exact ⟨rfl, ⟨rfl, staysInSession_writeBits reqId 8, rfl, rfl, staysInSession_readBits .ack1 3⟩, rfl, nofun⟩

theorem staysInSession_turnToWrite (p : Params) : ∀ o ∈ turnToWrite p, staysInSession o = true :=
  List.forall_mem_append.2 ⟨staysInSession_replicate rfl _, List.forall_mem_singleton.2 rfl⟩

theorem staysInSession_dataPhase_rd (p : Params) : ∀ o ∈ dataPhase p .rd, staysInSession o = true := by
  simp only [dataPhase, readPhase, idleBits4, List.forall_mem_cons, List.forall_mem_append]
  exact ⟨⟨staysInSession_readBits .data 32, rfl, rfl, staysInSession_writeBits _ 4⟩, rfl, rfl, nofun⟩

theorem staysInSession_afterIdAck (p : Params) (t : Trans) : ∀ o ∈ afterIdAck p t, staysInSession o = true := by
  unfold afterIdAck
  split
  · exact staysInSession_dataPhase_rd p
  · exact staysInSession_turnToWrite p

theorem enters_of_leavesSession {o : Op} (h : o.leavesSession = true) : o.enters = none := by
  cases o with
  | enterState x => nomatch h
  | _ => rfl

/-- Before its completion, a session writes SSTATE only where it enters a state (R161). -/
theorem enterState_of_inSession {o : Op} (h : o.inSession = true) (hs : o.leavesSession ≠ true) :
    ∃ y, o = .enterState y := by
  cases o with
  | enterState y => exact ⟨y, rfl⟩
  | complete e => nomatch h
  | _ => exact absurd rfl hs

/-! ## What is left of a session (R160) -/

/-- The head of the states ahead is the target of a transition, and what follows it is ahead of it. -/
theorem sessionAhead_cons {x y : SState} {ys : List SState} (h : sessionAhead x = y :: ys) :
    (x, y) ∈ sessionEdges ∧ y.midway = true ∧ ys = sessionAhead y := by
  cases x with
  | reset => nomatch h
  | idRequest => nomatch h
  | found => nomatch h
  | notFound => nomatch h
  | _ =>
    obtain ⟨rfl, rfl⟩ := List.cons.inj h
    exact ⟨by decide, rfl, rfl⟩

/-- The last state of a session under way is ID_REQUEST. -/
theorem eq_idRequest_of_sessionAhead_nil {x : SState} (hx : x.midway = true) (h : sessionAhead x = []) :
    x = .idRequest := by
  cases x with
  | reset => nomatch hx
  | found => nomatch hx
  | notFound => nomatch hx
  | idRequest => rfl
  | _ => nomatch h

theorem sessionLeft_complete : SessionLeft .idRequest [.complete .session] := ⟨[], rfl, nofun, rfl⟩

theorem sessionLeft_append {x : SState} {ops prog : List Op} (ho : ∀ o ∈ ops, staysInSession o = true)
    (h : SessionLeft x prog) : SessionLeft x (ops ++ prog) := by
  obtain ⟨lead, rfl, hin, henters⟩ := h
  have hnone : ops.filterMap Op.enters = [] :=
    List.filterMap_eq_nil_iff.2 fun o h => enters_of_leavesSession (leavesSession_of_staysInSession (ho o h))
  refine ⟨ops ++ lead, (List.append_assoc ..).symm,
    List.forall_mem_append.2 ⟨fun o h => inSession_of_staysInSession (ho o h), hin⟩, ?_⟩
  rw [List.filterMap_append, hnone, henters, List.nil_append]

theorem sessionLeft_enterState {x y : SState} {prog : List Op} (hahead : sessionAhead x = y :: sessionAhead y)
    (h : SessionLeft y prog) : SessionLeft x (.enterState y :: prog) := by
  obtain ⟨lead, rfl, hin, henters⟩ := h
  refine ⟨.enterState y :: lead, rfl, List.forall_mem_cons.2 ⟨rfl, hin⟩, ?_⟩
  rw [hahead, ← henters]
  rfl

/-- CONNECT at its first line, in WAKE (R166). -/
theorem sessionLeft_connectProg (p : Params) : SessionLeft .wake (connectProg p) :=
  sessionLeft_append staysInSession_wake <| sessionLeft_enterState rfl <|
  sessionLeft_append (staysInSession_lineReset p) <| sessionLeft_enterState rfl <|
  sessionLeft_append staysInSession_modeSwitch <| sessionLeft_enterState rfl <|
  sessionLeft_append (staysInSession_lineReset p) <| sessionLeft_enterState rfl <|
  sessionLeft_append staysInSession_idRequest sessionLeft_complete

/-- What the next line of a session is: it stays in the state, takes the next transition, or completes in ID_REQUEST. -/
theorem sessionLeft_cons {x : SState} {op : Op} {prog : List Op} (hx : x.midway = true)
    (h : SessionLeft x (op :: prog)) :
    (staysInSession op = true ∧ SessionLeft x prog) ∨
      (∃ y, op = .enterState y ∧ (x, y) ∈ sessionEdges ∧ y.midway = true ∧ SessionLeft y prog) ∨
      (op = .complete .session ∧ x = .idRequest) := by
  obtain ⟨lead, hprog, hin, henters⟩ := h
  cases lead with
  | nil =>
    obtain ⟨rfl, -⟩ := List.cons.inj hprog
    exact .inr (.inr ⟨rfl, eq_idRequest_of_sessionAhead_nil hx henters.symm⟩)
  | cons o lead =>
    obtain ⟨rfl, rfl⟩ := List.cons.inj hprog
    obtain ⟨hop, hlead⟩ := List.forall_mem_cons.1 hin
    by_cases hs : op.leavesSession = true
    · rw [List.filterMap_cons_none (enters_of_leavesSession hs)] at henters
      exact .inl ⟨Bool.and_eq_true_iff.2 ⟨hop, hs⟩, lead, rfl, hlead, henters⟩
    · obtain ⟨y, rfl⟩ := enterState_of_inSession hop hs
      obtain ⟨hedge, hy, hahead⟩ := sessionAhead_cons henters.symm
      exact .inr (.inl ⟨y, rfl, hedge, hy, lead, rfl, hlead, hahead⟩)

/-! ## The session invariant and a running command -/

/-- A program in session state x: what is left of CONNECT, or lines that leave SSTATE alone. -/
def SessionRuns (x : SState) (prog : List Op) : Prop :=
  (x.midway = true ∧ SessionLeft x prog) ∨ (x.midway = false ∧ ∀ op ∈ prog, op.leavesSession = true)

theorem sessionInv_idle {s : State} (h : s.engine = .idle) : SessionInv s ↔ s.sstate.midway = false := by
  simp only [SessionInv, h]

theorem sessionInv_running {s : State} {r : Running} (h : s.engine = .running r) :
    SessionInv s ↔ SessionRuns s.sstate r.prog := by
  simp only [SessionInv, SessionRuns, h]

/-- The invariant speaks of nothing that only the host writes. -/
theorem sessionInv_congr {s t : State} (hv : commandView t = commandView s) (h : SessionInv s) : SessionInv t := by
  have view : ∀ u : State, SessionInv (commandView u) ↔ SessionInv u := fun _ => Iff.rfl
  rwa [← view, hv, view]

/-- No command ends in the middle of a session but by the session's completion. -/
theorem not_midway_of_sessionRuns_nil {x : SState} (h : SessionRuns x []) : x.midway = false := by
  obtain ⟨-, lead, hprog, -⟩ | ⟨hx, -⟩ := h
  · simp at hprog
  · exact hx

/-! ## What a line does to SSTATE -/

theorem runLine_sstate {op : Op} (h : op.leavesSession = true) (r : Running) (s : State) :
    (runLine op r s).sstate = s.sstate := by
  cases op with
  | enterState x => nomatch h
  | complete e =>
    cases e with
    | session => nomatch h
    | _ => rfl
  | _ => rfl

/-- CONNECT's completion leaves FOUND or NOT_FOUND (R166). -/
theorem complete_session_sstate (r : Running) (s : State) :
    (complete .session r s).sstate = .found ∨ (complete .session r s).sstate = .notFound :=
  ite_eq_or_eq (r.shadow.trans.ok = true) SState.found SState.notFound

theorem leavesSession_of_transacts {o : Op} (h : transacts o = true) : o.leavesSession = true := by
  cases o with
  | enterState x => nomatch h
  | complete e => nomatch h
  | _ => rfl

/-- Only CONNECT has lines that write SSTATE (10_state.md R34). -/
theorem leavesSession_of_lineOf {i : Instr} (hi : i ≠ .connect) {o : Op} (h : lineOf i o) :
    o.leavesSession = true := by
  cases o with
  | enterState x => exact absurd h hi
  | complete e =>
    cases e with
    | session => exact absurd h hi
    | _ => rfl
  | _ => rfl

/-- Lines that leave SSTATE alone lead to such lines only. -/
theorem leavesSession_runLine {op : Op} {r r' : Running} {s : State} (h : (runLine op r s).engine = .running r')
    (hr : ∀ o ∈ r.prog, o.leavesSession = true) : ∀ o ∈ r'.prog, o.leavesSession = true := by
  intro o ho
  obtain ho | ht | ⟨-, rfl⟩ | ⟨i, k, -, -, rfl | rfl | ⟨-, rfl⟩⟩ := (runLine_lines h).2 o ho
  · exact hr o ho
  · exact leavesSession_of_transacts ht
  · rfl
  · rfl
  · rfl
  · rfl

/-- A line that stays in the session goes on with the rest of it, the ID request's test first with what the ACK decides. -/
theorem runLine_staysInSession {op : Op} (h : staysInSession op = true) (r : Running) (s : State) :
    ∃ r' front, (runLine op r s).engine = .running r' ∧ r'.prog = front ++ r.prog ∧
      ∀ o ∈ front, staysInSession o = true := by
  cases op with
  | testIdAck => exact ⟨_, _, rfl, rfl, staysInSession_afterIdAck _ _⟩
  | enterState x => nomatch h
  | parityOfWdata => nomatch h
  | testAck1 q x => nomatch h
  | testAck2 x => nomatch h
  | dumpCheck => nomatch h
  | dumpRead i k => nomatch h
  | storeWord k => nomatch h
  | complete e => nomatch h
  | _ => exact ⟨_, [], rfl, rfl, nofun⟩

/-- The next line of a running command keeps the session invariant. -/
theorem sessionInv_runLine {op : Op} {r : Running} {s : State} (h : SessionRuns s.sstate (op :: r.prog)) :
    SessionInv (runLine op r s) := by
  obtain ⟨hx, hleft⟩ | ⟨hx, hops⟩ := h
  · obtain ⟨hs, hleft⟩ | ⟨y, rfl, -, hy, hleft⟩ | ⟨rfl, -⟩ := sessionLeft_cons hx hleft
    · obtain ⟨r', front, hr', hprog, hfront⟩ := runLine_staysInSession hs r s
      rw [sessionInv_running hr', runLine_sstate (leavesSession_of_staysInSession hs), hprog]
      exact .inl ⟨hx, sessionLeft_append hfront hleft⟩
    · exact .inl ⟨hy, hleft⟩
    · rw [sessionInv_idle rfl]
      obtain hend | hend := complete_session_sstate r s
      · exact congrArg SState.midway hend
      · exact congrArg SState.midway hend
  · obtain ⟨hop, hrest⟩ := List.forall_mem_cons.1 hops
    have hsame := runLine_sstate hop r s
    cases he : (runLine op r s).engine with
    | idle => rwa [sessionInv_idle he, hsame]
    | running r' =>
      rw [sessionInv_running he, hsame]
      exact .inr ⟨hx, leavesSession_runLine he hrest⟩

/-- The next line of a running command leaves SSTATE alone or takes a transition of R160. -/
theorem runLine_takes_sessionEdge {op : Op} {r : Running} {s : State} (h : SessionRuns s.sstate (op :: r.prog)) :
    (runLine op r s).sstate = s.sstate ∨ (s.sstate, (runLine op r s).sstate) ∈ sessionEdges := by
  obtain ⟨hx, hleft⟩ | ⟨-, hops⟩ := h
  · obtain ⟨hs, -⟩ | ⟨y, rfl, hedge, -⟩ | ⟨rfl, hid⟩ := sessionLeft_cons hx hleft
    · exact .inl (runLine_sstate (leavesSession_of_staysInSession hs) r s)
    · exact .inr hedge
    · right
      rw [hid, runLine]
      obtain hend | hend := complete_session_sstate r s
      · rw [hend]
        decide
      · rw [hend]
        decide
  · exact .inl (runLine_sstate (List.forall_mem_cons.1 hops).1 r s)

/-! ## The parts of a step -/

/-- A running command of a state that meets the invariant, at its next line. -/
theorem sessionRuns_of_running {s : State} {r : Running} {prog : List Op} (h : SessionInv s)
    (hr : s.engine = .running r) (hp : r.prog = prog) : SessionRuns s.sstate prog :=
  hp ▸ (sessionInv_running hr).1 h

theorem sessionInv_engineStep (s : State) (h : SessionInv s) : SessionInv (engineStep s) := by
  obtain ⟨-, hs⟩ | ⟨r, hr, hp, hs⟩ | ⟨r, op, rest, hr, hp, hs⟩ := engineStep_cases s
  · rwa [hs]
  · rw [hs, sessionInv_idle rfl]
    exact not_midway_of_sessionRuns_nil (x := s.sstate) (sessionRuns_of_running h hr hp)
  · rw [hs]
    exact sessionInv_runLine (r := { r with prog := rest }) (sessionRuns_of_running h hr hp)

/-- The acceptance of CONNECT enters WAKE with all of the session ahead; any other command's leaves SSTATE alone and starts
lines that do (R160, R161, 10_state.md R34). -/
theorem sessionInv_accepted (i : Instr) (s : State) (h : SessionInv s) (hi : s.engine = .idle) :
    SessionInv (accepted i (enterOf i) (progOf i) s) := by
  have hrest := (sessionInv_idle hi).1 h
  rw [sessionInv_running rfl]
  show SessionRuns ((enterOf i).getD s.sstate) (progOf i s.params (latchOf i s))
  rw [enterOf_getD]
  by_cases hc : i = .connect
  · subst hc
    exact .inl ⟨rfl, sessionLeft_connectProg s.params⟩
  · rw [if_neg hc]
    exact .inr ⟨hrest, fun o ho => leavesSession_of_lineOf hc (lineOf_progOf i _ _ o ho)⟩

theorem sessionInv_assertReset (s : State) : SessionInv (assertReset s) := (sessionInv_idle rfl).2 rfl

/-! ## The obligations on the invariant -/

/-- Settles O23: after reset the engine is idle and SSTATE is RESET. -/
theorem resetMeetsSessionInvariant : Obligations.ResetMeetsSessionInvariant := (sessionInv_idle rfl).2 rfl

/-- Settles O24: the engine keeps the invariant line by line, CONNECT's acceptance starts a whole session, and a host access
writes neither SSTATE nor the engine. -/
theorem stepKeepsSessionInvariant : Obligations.StepKeepsSessionInvariant := by
  intro s t h hst
  exact step_keeps (P := SessionInv) sessionInv_engineStep (fun _ _ => sessionInv_congr rfl)
    (fun _ _ => sessionInv_congr rfl) (fun s off v => sessionInv_congr (commandView_regWrite off v s))
    (fun _ => sessionInv_congr rfl) (fun _ => sessionInv_congr rfl) (fun i s h _ hi _ => sessionInv_accepted i s h hi)
    (fun s _ => sessionInv_assertReset s) (fun _ h => h) h hst

/-- Settles O25: the next line of a session enters the state next ahead or, in ID_REQUEST, completes; every other line leaves
SSTATE alone. -/
theorem sessionTakesOnlyItsTransitions : Obligations.SessionTakesOnlyItsTransitions := by
  intro s h
  obtain ⟨-, hs⟩ | ⟨r, -, -, hs⟩ | ⟨r, op, rest, hr, hp, hs⟩ := engineStep_cases s
  · exact .inl (by rw [hs])
  · exact .inl (by rw [hs])
  · rw [hs]
    exact runLine_takes_sessionEdge (r := { r with prog := rest }) (sessionRuns_of_running h hr hp)

/-! ## CONNECT from its acceptance to its completion (R166) -/

/-- SSTATE has no part in a run of cycles. -/
theorem ran_sstate_comm (s : State) (x : SState) (d : Dir) (o : Bool) (tr : List Cycle) (n : Nat) :
    { ran s d o tr n with sstate := x } = ran { s with sstate := x } d o tr n := rfl

/-- A line reset between two session states (R161, R162). -/
theorem runToEnd_lineReset_between (l : Latch) (h : Shadow) (rest : List Op) (x y : SState) (s : State) (o : Bool)
    (tr : List Cycle) (m : Nat) :
    ∃ o', runToEnd (resume ⟨l, h, .enterState x :: (lineReset s.params ++ .enterState y :: rest)⟩ (ran s .out o tr m)) =
      runToEnd (resume ⟨l, h, rest⟩ (ran { s with sstate := y } .out o' (tr ++ lineResetTrace s.params) m)) := by
  rw [runToEnd_enterState, ran_sstate_comm]
  obtain ⟨o', hreset⟩ := runToEnd_lineReset l h (.enterState y :: rest) s.params { s with sstate := x } o tr m
  exact ⟨o', by rw [hreset, runToEnd_enterState, ran_sstate_comm]⟩

/-- The ID request up to what its ACK decides (R165). -/
theorem runToEnd_idRequest {l : Latch} {h : Shadow} {rest : List Op} {a : Ack} {s : State} {d : Dir} {o : Bool}
    {tr : List Cycle} {m : Nat} (ha : DrawsAre s m a 3) :
    runToEnd (resume ⟨l, h, idRequest ++ rest⟩ (ran s d o tr m)) =
      runToEnd (resume ⟨l, { h with trans := { Trans.start with ack1 := a } },
        (if a = Config.ackOk then dataPhase s.params .rd else turnToWrite s.params) ++ rest⟩
        (ran s .inp true (tr ++ requestTrace reqId a) (m + 3))) := by
  unfold idRequest
  rw [List.cons_append, runToEnd_newTransaction, List.append_assoc, runToEnd_request ha,
    ack1_of_draws h (by intro i hi; rw [drawAt_ran]; exact ha i hi), List.cons_append, List.nil_append,
    runToEnd_testIdAck]
  rfl

/-- CONNECT up to what the ID request's ACK decides (R166). -/
theorem runToEnd_connectProg {l : Latch} {h : Shadow} {a : Ack} {s : State} (ha : DrawsAre s 0 a 3) :
    runToEnd (resume ⟨l, h, connectProg s.params⟩ s) =
      runToEnd (resume ⟨l, { h with trans := { Trans.start with ack1 := a } },
        (if a = Config.ackOk then dataPhase s.params .rd else turnToWrite s.params) ++ [.complete .session]⟩
        (ran { s with sstate := .idRequest } .inp true (connectTrace s.params a) 3)) := by
  unfold connectProg
  rw [runToEnd_wake]
  obtain ⟨o₁, hfirst⟩ := runToEnd_lineReset_between l h
    (modeSwitch ++ (.enterState .lineReset2 :: (lineReset s.params ++ (.enterState .idRequest ::
      (idRequest ++ [.complete .session]))))) .lineReset .modeSwitch s false
    (sent alert 128 ++ (idleTrace ++ sent activation 8)) 0
  rw [hfirst, modeSwitch, runToEnd_sends]
  obtain ⟨o₂, hsecond⟩ := runToEnd_lineReset_between l h (idRequest ++ [.complete .session]) .lineReset2 .idRequest
    { s with sstate := .modeSwitch } (modeSwitchSeq.getLsbD 15)
    (sent alert 128 ++ (idleTrace ++ sent activation 8) ++ lineResetTrace s.params ++ sent modeSwitchSeq 16) 0
  rw [hsecond, runToEnd_idRequest (s := { s with sstate := .idRequest }) ha]
  simp only [connectTrace, List.append_assoc, Nat.zero_add]

/-- CONNECT on an idle engine, from its acceptance up to what the ID request's ACK decides (R161, R166). -/
theorem exec_connect_quiet {a : Ack} {s : State} (hq : Quiet s) (ha : DrawsAre s 0 a 3) :
    exec .connect s =
      .next (runToEnd (resume ⟨latchOf .connect s, { Shadow.start with trans := { Trans.start with ack1 := a } },
        (if a = Config.ackOk then dataPhase s.params .rd else turnToWrite s.params) ++ [.complete .session]⟩
        (ran { s with sstate := .idRequest } .inp true (connectTrace s.params a) 3))) := by
  rw [execConnect_quiet hq]
  exact congrArg _ (runToEnd_connectProg (s := { s with sstate := .wake }) ha)

/-- Settles O21: the ACK being ACK_OK, the read phase follows, and the completion writes the word it got. -/
theorem connectFindsDevice : Obligations.ConnectFindsDevice := by
  intro s d par hq hack hd hpar
  rw [exec_connect_quiet hq hack, if_pos rfl, runToEnd_dataPhase_rd (s := { s with sstate := .idRequest }) hd hpar,
    runToEnd_complete, complete_session]
  · rfl
  · exact hq.1

/-- Settles O22: any other ACK ends the session with the line taken back, no recovery following (R165). -/
theorem connectFindsNothing : Obligations.ConnectFindsNothing := by
  intro s a hq hack hne
  rw [exec_connect_quiet hq hack, if_neg hne, runToEnd_turnToWrite, runToEnd_complete, complete_session]
  · rfl
  · exact hq.1

end Sys2Proof.Proofs

/-! SUPPORT. The transaction commands (spec/43_transaction.md): XFER.RD and XFER.WR from their acceptance to their completion
by what the target replies, that it always replies in one of the three ways, the cycles of each, and the fields of ACKS. -/

namespace Sys2Proof.Proofs

open Sys2Proof.Machine Sys2Proof.Laws

/-! ## XFER.RD and XFER.WR, by how the transaction goes (R195, R196) -/

/-- RESULT by a reply (R198, R199). -/
def replyResult (q : Reply) : CmdResult := if q.succeeds then .ok else .fail

theorem outcome_replyRecord (x : XferDir) (q : Reply) : (replyRecord x q).outcome = replyResult q := by
  rw [Trans.outcome, ok_replyRecord, replyResult]

/-- XFER.RD on an idle engine: one read transaction, whose word reaches RDATA if it succeeded (R198). -/
theorem exec_xferRd_quiet {r : Byte} {s : State} {q : Reply} (hq : Quiet s) (hd : q.Drawn s 0 .rd) :
    exec (.xferRd r) s =
      .next { ran s .out (replyOutput r q) (q.trace s.params r .rd) (q.draws .rd) with
        result := replyResult q, recovered := q.recovers, rdata := if q.succeeds then q.word else s.rdata
        acks := packAcks (q.record .rd) } := by
  rw [exec_quiet hq rfl rfl, progOf, latch_request_xferRd, runToEnd_reply_first hd, runToEnd_complete, complete_xferRd]
  · simp only [outcome_replyRecord, recovered_replyRecord, ok_replyRecord, data_replyRecord, packAcks_replyRecord,
      ran_rdata]
  · exact hq.1

/-- XFER.WR on an idle engine: one write transaction of the latched WDATA, RDATA left alone (R199). -/
theorem exec_xferWr_quiet {r : Byte} {s : State} {q : Reply} (hq : Quiet s) (hd : q.Drawn s 0 (.wr s.wdata)) :
    exec (.xferWr r) s =
      .next { ran s .out (replyOutput r q) (q.trace s.params r (.wr s.wdata)) (q.draws (.wr s.wdata)) with
        result := replyResult q, recovered := q.recovers, acks := packAcks (q.record (.wr s.wdata)) } := by
  rw [exec_quiet hq rfl rfl, progOf, latch_request_xferWr, latch_value, runToEnd_reply_first hd, runToEnd_complete,
    complete_xferWr]
  · simp only [outcome_replyRecord, recovered_replyRecord, packAcks_replyRecord]
  · exact hq.1

/-! ## Every target replies (00_scope.md R8) -/

/-- Whatever the draws are, w of them in a row are the bits of some word. -/
theorem exists_drawsAre (s : State) (k w : Nat) : ∃ v : BitVec w, DrawsAre s k v w :=
  ⟨(List.range w).foldl (fun v i => setBit v i (drawAt s (k + i))) 0#w,
    fun i hi => by rw [getLsbD_foldl_setBit _ _ _ _ hi, if_pos hi]⟩

theorem exists_dataDrawn (s : State) (k : Nat) (x : XferDir) : ∃ d par, DataDrawn s k d par x := by
  cases x with
  | rd =>
    obtain ⟨d, hd⟩ := exists_drawsAre s k 32
    exact ⟨d, _, hd, rfl⟩
  | wr v => exact ⟨0#32, false, trivial⟩

/-- The ACKs decide which of the three replies the draws are (R195, R196). -/
theorem exists_drawn (s : State) (k : Nat) (x : XferDir) : ∃ q : Reply, q.Drawn s k x := by
  obtain ⟨a1, h1⟩ := exists_drawsAre s k 3
  obtain ⟨aa, ha⟩ := exists_drawsAre s (k + 3) 3
  obtain ⟨a2, h2⟩ := exists_drawsAre s (k + 6) 3
  by_cases hack1 : a1 = Config.ackOk
  · subst hack1
    obtain ⟨d, par, hd⟩ := exists_dataDrawn s (k + 3) x
    exact ⟨.clean d par, h1, hd⟩
  · by_cases hack2 : a2 = Config.ackOk
    · subst hack2
      obtain ⟨d, par, hd⟩ := exists_dataDrawn s (k + 9) x
      exact ⟨.recovered a1 aa d par, h1, hack1, ha, h2, hd⟩
    · exact ⟨.failed a1 aa a2, h1, hack1, ha, h2, hack2⟩

/-! ## Cycle counts (R203) -/

@[simp] theorem length_sent {w : Nat} (v : BitVec w) (n : Nat) : (sent v n).length = n := by simp [sent]

@[simp] theorem length_got {w : Nat} (v : BitVec w) (n : Nat) : (got v n).length = n := by simp [got]

@[simp] theorem length_turnTrace (p : Params) : (turnTrace p).length = p.wrTrn := by simp [turnTrace]

@[simp] theorem length_requestTrace (r : Byte) (a : Ack) : (requestTrace r a).length = 12 := by simp [requestTrace]

@[simp] theorem length_readTrace (d : Word) (par : Bool) : (readTrace d par).length = 37 := by simp [readTrace, idleTrace]

@[simp] theorem length_writeTrace (p : Params) (v : Word) : (writeTrace p v).length = p.wrTrn + 37 := by
  simp [writeTrace, idleTrace]

@[simp] theorem length_recoverTrace (p : Params) (r : Byte) (aa a2 : Ack) :
    (recoverTrace p r aa a2).length = 61 + 2 * p.wrTrn := by
  simp only [recoverTrace, List.length_append, length_turnTrace, length_requestTrace, length_writeTrace]
  omega

/-- The table of R203. -/
def replyCycles (p : Params) : XferDir → Reply → Nat
  | .rd, .clean _ _ => 49
  | .rd, .recovered _ _ _ _ => 110 + 2 * p.wrTrn
  | .rd, .failed _ _ _ => 73 + 3 * p.wrTrn
  | .wr _, .clean _ _ => 49 + p.wrTrn
  | .wr _, .recovered _ _ _ _ => 110 + 3 * p.wrTrn
  | .wr _, .failed _ _ _ => 73 + 3 * p.wrTrn

theorem length_trace (p : Params) (r : Byte) (x : XferDir) (q : Reply) : (q.trace p r x).length = replyCycles p x q := by
  cases x with
  | rd => cases q <;> simp [Reply.trace, dataTrace, replyCycles] <;> omega
  | wr v => cases q <;> simp [Reply.trace, dataTrace, replyCycles] <;> omega

/-! ## The fields of ACKS (R201) -/

/-- The three ACKs stand in the low nine bits. -/
theorem packAcks_acks (t : Trans) : (packAcks t).extractLsb' 0 3 = t.ack1 ∧ (packAcks t).extractLsb' 3 3 = t.acka ∧
    (packAcks t).extractLsb' 6 3 = t.ack2 := by
  unfold packAcks
  refine ⟨BitVec.extractLsb'_append_eq_right, ?_, ?_⟩
  · rw [BitVec.extractLsb'_append_eq_of_le (by decide), BitVec.extractLsb'_append_eq_right]
  · rw [BitVec.extractLsb'_append_eq_of_le (by decide), BitVec.extractLsb'_append_eq_of_le (by decide),
      BitVec.extractLsb'_append_eq_right]

/-- RPAR and PERR stand next above the ACKs. -/
theorem packAcks_flags (t : Trans) : (packAcks t).getLsbD 9 = t.rpar ∧ (packAcks t).getLsbD 10 = t.perr := by
  constructor <;> simp only [packAcks, BitVec.getLsbD_append] <;> simp

/-! ## The obligations -/

/-- Settles O33: each field of ACKS starts where the fields packed below it end. -/
theorem acksLayout : Obligations.AcksLayout := by
  intro t
  obtain ⟨hack1, hacka, hack2⟩ := packAcks_acks t
  obtain ⟨hrpar, hperr⟩ := packAcks_flags t
  exact ⟨hack1, hacka, hack2, hrpar, hperr, packAcks_high t⟩

/-- Settles O26: the reply is a clean one. -/
theorem xferRdFirstAckOk : Obligations.XferRdFirstAckOk := by
  intro r s d par hq hack hd hpar
  exact exec_xferRd_quiet (q := .clean d par) hq ⟨hack, hd, hpar⟩

/-- Settles O27: the reply is a recovered one, its data phase after nine draws for the three ACKs. -/
theorem xferRdRecovers : Obligations.XferRdRecovers := by
  intro r s a1 aa d par hq h1 hne ha h2 hd hpar
  exact exec_xferRd_quiet (q := .recovered a1 aa d par) hq ⟨h1, hne, ha, h2, hd, hpar⟩

/-- Settles O28: the reply is a failed one, after which SWDIO_O is still the last bit of the reissued request. -/
theorem xferRdFails : Obligations.XferRdFails := by
  intro r s a1 aa a2 hq h1 hne1 ha h2 hne2
  exact exec_xferRd_quiet (q := .failed a1 aa a2) hq ⟨h1, hne1, ha, h2, hne2⟩

/-- Settles O29: the reply is a clean one; a write takes no word from it. -/
theorem xferWrFirstAckOk : Obligations.XferWrFirstAckOk := by
  intro r s hq hack
  exact exec_xferWr_quiet (q := .clean 0#32 false) hq ⟨hack, trivial⟩

/-- Settles O30: the reply is a recovered one; a write takes no word from it. -/
theorem xferWrRecovers : Obligations.XferWrRecovers := by
  intro r s a1 aa hq h1 hne ha h2
  exact exec_xferWr_quiet (q := .recovered a1 aa 0#32 false) hq ⟨h1, hne, ha, h2, trivial⟩

/-- Settles O31: the reply is a failed one, which has no data phase. -/
theorem xferWrFails : Obligations.XferWrFails := by
  intro r s a1 aa a2 hq h1 hne1 ha h2 hne2
  exact exec_xferWr_quiet (q := .failed a1 aa a2) hq ⟨h1, hne1, ha, h2, hne2⟩

/-- Settles O32: the draws are one of the three replies, and the reply fixes RESULT, RECOVERED and the row of R203. -/
theorem transactionCycleCounts : Obligations.TransactionCycleCounts := by
  intro r s hq
  constructor
  · obtain ⟨q, hd⟩ := exists_drawn s 0 .rd
    have hcycles := length_trace s.params r .rd q
    refine ⟨_, _, exec_xferRd_quiet hq hd, rfl, ?_⟩
    cases q with
    | clean => exact .inl ⟨rfl, rfl, hcycles⟩
    | recovered => exact .inr (.inl ⟨rfl, rfl, hcycles⟩)
    | failed => exact .inr (.inr ⟨rfl, rfl, hcycles⟩)
  · obtain ⟨q, hd⟩ := exists_drawn s 0 (.wr s.wdata)
    have hcycles := length_trace s.params r (.wr s.wdata) q
    refine ⟨_, _, exec_xferWr_quiet hq hd, rfl, ?_⟩
    cases q with
    | clean => exact .inl ⟨rfl, rfl, hcycles⟩
    | recovered => exact .inr (.inl ⟨rfl, rfl, hcycles⟩)
    | failed => exact .inr (.inr ⟨rfl, rfl, hcycles⟩)

end Sys2Proof.Proofs

/-! SUPPORT. DUMP (spec/44_dump.md): its pseudocode as one transaction after another, where it stands once the first m of them
succeeded, and its two ends: the first failed transaction, or all of them done. -/

namespace Sys2Proof.Proofs

open Sys2Proof.Machine Sys2Proof.Laws

/-! ## The words a DUMP stores (R224, 20_memory.md R68) -/

/-- BUF with the first k of the words w stored on b in turn. -/
def storedOn (b : Memory) (w : Nat → Word) : Nat → Memory
  | 0 => b
  | k + 1 => bufAfterStore (storedOn b w k) k (w k)

theorem wordsStored_storedOn (b : Memory) (w : Nat → Word) (k : Nat) : WordsStored b (storedOn b w k) k w := by
  induction k with
  | zero => exact ⟨fun _ hj => absurd hj (Nat.not_lt_zero _), fun _ _ => rfl⟩
  | succ k ih =>
    obtain ⟨hwords, hframe⟩ := ih
    refine ⟨fun j hj => ?_, fun a ha => ?_⟩
    · obtain hjk | rfl := Nat.lt_succ_iff_lt_or_eq.1 hj
      · rw [storedOn, read_bufAfterStore_other _ _ _ _ (by omega), read_bufAfterStore_other _ _ _ _ (by omega),
          read_bufAfterStore_other _ _ _ _ (by omega), read_bufAfterStore_other _ _ _ _ (by omega)]
        exact hwords j hjk
      · simp [storedOn, read_bufAfterStore, Nat.add_assoc]
    · rw [storedOn, read_bufAfterStore_other _ _ _ _ (by omega)]
      exact hframe a (by omega)

/-- BUF after the first m transactions of a DUMP: the words of the reads but the first. -/
def dumpBuf (b : Memory) (rep : Nat → Reply) (m : Nat) : Memory := storedOn b (fun j => (rep (4 + j)).word) (m - 4)

/-! ## DUMP as one transaction after another (R221) -/

/-- What DUMP still has to run after its first m transactions. -/
def dumpLeft (a : Word) (k : Nat) : Nat → List Op
  | 0 =>
    dumpSetup reqAbort abortPayload ++ (dumpSetup reqSelect selectPayload ++ (dumpSetup reqAddress a ++
      [.dumpRead 0 k, .complete .dumpDone]))
  | 1 => dumpSetup reqSelect selectPayload ++ (dumpSetup reqAddress a ++ [.dumpRead 0 k, .complete .dumpDone])
  | 2 => dumpSetup reqAddress a ++ [.dumpRead 0 k, .complete .dumpDone]
  | i + 3 => [.dumpRead i k, .complete .dumpDone]

/-- What follows the m-th transaction if it succeeded: the store, from the second read on. -/
def dumpStore : Nat → List Op
  | i + 4 => [.storeWord i]
  | _ => []

theorem progOf_dump {s : State} (hn : s.dlen.toNat < s.params.dumpCapacity) :
    progOf .dump s.params (latchOf .dump s) = dumpLeft s.wdata ((s.dlen.toNat + 3) / 4 + 1) 0 :=
  if_neg (Nat.not_le_of_lt hn)

theorem dumpRequest_read (a : Word) {m : Nat} (hm : 3 ≤ m) : dumpRequest a m = (reqData, .rd) := by
  obtain ⟨i, rfl⟩ := Nat.exists_eq_add_of_le' hm
  rfl

/-- Every request of a DUMP ends in a 1, which a failed transaction leaves on SWDIO_O. -/
theorem dumpRequest_last (a : Word) (m : Nat) : (dumpRequest a m).1.getLsbD 7 = true := by
  match m with
  | 0 | 1 | 2 | _ + 3 =>
    simp only [dumpRequest]
    decide

/-- While transactions are left, the next one is next. -/
theorem runToEnd_dumpLeft (l : Latch) (h : Shadow) (a : Word) {k m : Nat} (hm : m < 3 + k) (s : State) :
    runToEnd (resume ⟨l, h, dumpLeft a k m⟩ s) =
      runToEnd (resume ⟨l, h, transact (dumpRequest a m).1 (dumpRequest a m).2 ++
        (.dumpCheck :: (dumpStore m ++ dumpLeft a k (m + 1)))⟩ s) := by
  match m with
  | 0 | 1 | 2 => simp only [dumpLeft, dumpSetup, dumpRequest, dumpStore, List.append_assoc, List.cons_append, List.nil_append]
  | i + 3 =>
    rw [dumpLeft, runToEnd_dumpRead, dumpPass, if_pos (by omega), dumpIteration]
    cases i <;> simp [dumpLeft, dumpRequest, dumpStore]

/-- With no transaction left DUMP completes. -/
theorem runToEnd_dumpLeft_done (l : Latch) (h : Shadow) (a : Word) (k : Nat) (s : State) :
    runToEnd (resume ⟨l, h, dumpLeft a k (3 + k)⟩ s) = complete .dumpDone ⟨l, h, []⟩ s := by
  rw [Nat.add_comm, dumpLeft, runToEnd_dumpRead, dumpPass, if_neg (Nat.lt_irrefl k), List.nil_append, runToEnd_complete]

/-- One transaction of a DUMP: on to what is left, or to the stop (R221). -/
theorem runToEnd_dumpTransaction {l : Latch} {h : Shadow} {a : Word} {k m : Nat} {q : Reply} {s : State} {d : Dir}
    {o : Bool} {tr : List Cycle} {n : Nat} (hm : m < 3 + k) (hq : q.Drawn s n (dumpRequest a m).2) :
    runToEnd (resume ⟨l, h, dumpLeft a k m⟩ (ran s d o tr n)) =
      runToEnd (resume ⟨l,
        { h with trans := replyRecord (dumpRequest a m).2 q, recAny := h.recAny || q.recovers },
        if q.succeeds then dumpStore m ++ dumpLeft a k (m + 1) else [.complete .dumpStopped]⟩
        (ran s .out (!q.succeeds) (tr ++ q.trace s.params (dumpRequest a m).1 (dumpRequest a m).2)
          (n + q.draws (dumpRequest a m).2))) := by
  rw [runToEnd_dumpLeft l h a hm, runToEnd_reply hq, runToEnd_dumpCheck]
  simp only [afterDumpCheck, ok_replyRecord, recovered_replyRecord, replyOutput, dumpRequest_last, Bool.and_true]

/-- A DUMP does not see what the pins were before it. -/
theorem runToEnd_dump_pins (l : Latch) (h : Shadow) (a : Word) (k : Nat) (s : State) :
    runToEnd (resume ⟨l, h, dumpLeft a k 0⟩ s) = runToEnd (resume ⟨l, h, dumpLeft a k 0⟩ (ran s .out false [] 0)) := by
  obtain ⟨q, hq⟩ := exists_drawn s 0 (dumpRequest a 0).2
  rw [runToEnd_dumpLeft l h a (by omega), runToEnd_dumpLeft l h a (by omega), runToEnd_reply_first hq, runToEnd_reply hq,
    List.nil_append, Nat.zero_add (q.draws _)]

/-! ## After m transactions that succeeded -/

/-- The shadow results after the first m transactions. -/
def dumpShadow (a : Word) (rep : Nat → Reply) : Nat → Shadow
  | 0 => Shadow.start
  | m + 1 =>
    { value := 0#32
      trans := replyRecord (dumpRequest a m).2 (rep m)
      recAny := (List.range (m + 1)).any (fun i => (rep i).recovers)
      words := m + 1 - 4 }

theorem dumpShadow_value (a : Word) (rep : Nat → Reply) (m : Nat) : (dumpShadow a rep m).value = 0#32 := by
  cases m <;> rfl

theorem dumpShadow_recAny (a : Word) (rep : Nat → Reply) (m : Nat) :
    (dumpShadow a rep m).recAny = (List.range m).any (fun i => (rep i).recovers) := by
  cases m <;> rfl

theorem dumpShadow_words (a : Word) (rep : Nat → Reply) (m : Nat) : (dumpShadow a rep m).words = m - 4 := by
  cases m <;> rfl

theorem packAcks_dumpShadow_read (a : Word) (rep : Nat → Reply) (i : Nat) :
    packAcks (dumpShadow a rep (3 + (i + 1))).trans = packAcks ((rep (3 + i)).record .rd) := by
  rw [← Nat.add_assoc, dumpShadow, packAcks_replyRecord, dumpRequest_read a (Nat.le_add_right 3 i)]

/-- The state after the first m transactions, the engine left aside. -/
def dumpState (s : State) (rep : Nat → Reply) (m : Nat) : State :=
  ran { s with buf := dumpBuf s.buf rep m } .out false (dumpCycles s.params s.wdata rep m) (dumpDraws s.wdata rep m)

/-- The store after the m-th transaction, if one is due (R224). -/
theorem runToEnd_dumpStore {l : Latch} {h : Shadow} {rest : List Op} {rep : Nat → Reply} {m : Nat} {s : State} {d : Dir}
    {o : Bool} {tr : List Cycle} {n : Nat} (hwords : h.words = m - 4) (hdata : 3 ≤ m → h.trans.data = (rep m).word) :
    runToEnd (resume ⟨l, h, dumpStore m ++ rest⟩ (ran { s with buf := dumpBuf s.buf rep m } d o tr n)) =
      runToEnd (resume ⟨l, { h with words := m + 1 - 4 }, rest⟩
        (ran { s with buf := dumpBuf s.buf rep (m + 1) } d o tr n)) := by
  match m with
  | 0 | 1 | 2 | 3 =>
    obtain ⟨value, trans, recAny, words⟩ := h
    obtain rfl := hwords
    rfl
  | i + 4 =>
    have hbuf : dumpBuf s.buf rep (i + 4 + 1) = bufAfterStore (dumpBuf s.buf rep (i + 4)) i (rep (i + 4)).word := by
      rw [Nat.add_comm i 4]
      simp [dumpBuf, Nat.add_assoc, storedOn]
    rw [dumpStore, List.cons_append, List.nil_append, runToEnd_storeWord, hdata (by omega), hwords, hbuf]
    rfl

/-- The invariant of DUMP's run: after m transactions that succeeded it stands at what is left, its words stored. -/
theorem runToEnd_dump_succeeded {l : Latch} {k : Nat} {s : State} {rep : Nat → Reply} {m : Nat} (hm : m ≤ 3 + k)
    (hd : DumpDrawn s rep m) (hs : ∀ i, i < m → (rep i).succeeds = true) :
    runToEnd (resume ⟨l, Shadow.start, dumpLeft s.wdata k 0⟩ s) =
      runToEnd (resume ⟨l, dumpShadow s.wdata rep m, dumpLeft s.wdata k m⟩ (dumpState s rep m)) := by
  induction m with
  | zero => exact runToEnd_dump_pins l Shadow.start s.wdata k s
  | succ m ih =>
    have hdrawn := drawn_congr (t := { s with buf := dumpBuf s.buf rep m }) rfl rfl (hd m (Nat.lt_succ_self m))
    have hdata : 3 ≤ m → (replyRecord (dumpRequest s.wdata m).2 (rep m)).data = (rep m).word := fun h3 => by
      rw [dumpRequest_read _ h3, data_replyRecord]
    rw [ih (by omega) (fun i hi => hd i (by omega)) (fun i hi => hs i (by omega)), dumpState,
      runToEnd_dumpTransaction (by omega) hdrawn, hs m (Nat.lt_succ_self m), if_pos rfl,
      runToEnd_dumpStore, dumpShadow_value, dumpShadow_recAny]
    · simp only [dumpShadow, List.range_succ, List.any_append, List.any_cons, List.any_nil, Bool.or_false]
      rfl
    · exact dumpShadow_words s.wdata rep m
    · exact hdata

/-! ## The two ends of a DUMP -/

/-- DUMP on an idle engine, every transaction succeeding (R221, R226). -/
theorem exec_dump_completes {s : State} {rep : Nat → Reply} (hq : Quiet s) (hn : s.dlen.toNat < s.params.dumpCapacity)
    (hd : DumpDrawn s rep (3 + ((s.dlen.toNat + 3) / 4 + 1)))
    (hs : ∀ i, i < 3 + ((s.dlen.toNat + 3) / 4 + 1) → (rep i).succeeds = true) :
    exec .dump s =
      .next { ran s .out false (dumpCycles s.params s.wdata rep (3 + ((s.dlen.toNat + 3) / 4 + 1)))
          (dumpDraws s.wdata rep (3 + ((s.dlen.toNat + 3) / 4 + 1))) with
        result := .ok, dcount := s.dlen, buf := storedOn s.buf (fun j => (rep (4 + j)).word) ((s.dlen.toNat + 3) / 4)
        recovered := (List.range (3 + ((s.dlen.toNat + 3) / 4 + 1))).any (fun i => (rep i).recovers)
        acks := packAcks ((rep (3 + (s.dlen.toNat + 3) / 4)).record .rd) } := by
  have hwords : ∀ c, 3 + (c + 1) - 4 = c := by omega
  rw [exec_quiet hq rfl rfl, progOf_dump hn, runToEnd_dump_succeeded (Nat.le_refl _) hd hs, runToEnd_dumpLeft_done,
    complete_dumpDone]
  · simp only [dumpState, dumpBuf, hwords, dumpShadow_recAny, packAcks_dumpShadow_read]
    rfl
  · exact hq.1

/-- DUMP on an idle engine, stopped by its m-th transaction (R221, R226, R227). -/
theorem exec_dump_stops {s : State} {rep : Nat → Reply} {m : Nat} (hq : Quiet s)
    (hn : s.dlen.toNat < s.params.dumpCapacity) (hm : m < 3 + ((s.dlen.toNat + 3) / 4 + 1))
    (hd : DumpDrawn s rep (m + 1)) (hs : ∀ i, i < m → (rep i).succeeds = true) (hf : (rep m).succeeds = false) :
    exec .dump s =
      .next { ran s .out true (dumpCycles s.params s.wdata rep (m + 1)) (dumpDraws s.wdata rep (m + 1)) with
        result := .fail, recovered := true, dcount := BitVec.ofNat 32 (min s.dlen.toNat (4 * (m - 4)))
        buf := storedOn s.buf (fun j => (rep (4 + j)).word) (m - 4)
        acks := packAcks ((rep m).record (dumpRequest s.wdata m).2) } := by
  have hdrawn := drawn_congr (t := { s with buf := dumpBuf s.buf rep m }) rfl rfl (hd m (Nat.lt_succ_self m))
  have hrec : (rep m).recovers = true := by
    cases hr : rep m with
    | failed => rfl
    | _ => exact absurd hf (by simp [hr, Reply.succeeds])
  rw [exec_quiet hq rfl rfl, progOf_dump hn,
    runToEnd_dump_succeeded (Nat.le_of_lt hm) (fun i hi => hd i (by omega)) hs, dumpState,
    runToEnd_dumpTransaction hm hdrawn, hf, if_neg Bool.false_ne_true, runToEnd_complete, complete_dumpStopped]
  · simp only [hrec, Bool.or_true, packAcks_replyRecord, dumpShadow_words]
    rfl
  · exact hq.1

/-! ## The obligations on the two ends -/

/-- Settles O57: the run stands at the m-th transaction, and its failure completes the DUMP. -/
theorem dumpStopsAtFirstFailure : Obligations.DumpStopsAtFirstFailure := by
  intro s rep m hq hn hm hd hs hf
  exact ⟨_, exec_dump_stops hq hn hm hd hs hf, wordsStored_storedOn _ _ _⟩

/-- Settles O58: the run stands where no transaction is left. -/
theorem dumpCompletesThroughRecoveries : Obligations.DumpCompletesThroughRecoveries := by
  intro s rep hq hn hd hs
  exact ⟨_, exec_dump_completes hq hn hd hs, wordsStored_storedOn _ _ _⟩

/-- Settles O36: the first transaction is the one that fails, so no word is stored. -/
theorem dumpStopsOnFailedSetup : Obligations.DumpStopsOnFailedSetup := by
  intro s a1 aa a2 hq hn h1 hne1 ha h2 hne2
  have hd : DumpDrawn s (fun _ => .failed a1 aa a2) 1 := fun i hi => by
    obtain rfl := Nat.lt_one_iff.1 hi
    exact ⟨h1, hne1, ha, h2, hne2⟩
  rw [exec_dump_stops hq hn (by omega) hd (fun i hi => absurd hi (Nat.not_lt_zero i)) rfl,
    Nat.mul_zero, Nat.min_zero]
  rfl

/-! ## Whatever the target answers (R226, R232) -/

/-- The draws of the first m transactions depend on the first m replies only. -/
theorem dumpDraws_congr {a : Word} {rep rep' : Nat → Reply} {m : Nat} (h : ∀ i, i < m → rep' i = rep i) :
    dumpDraws a rep' m = dumpDraws a rep m := by
  induction m with
  | zero => rfl
  | succ m ih => rw [dumpDraws, dumpDraws, ih fun i hi => h i (by omega), h m (Nat.lt_succ_self m)]

/-- Whatever the draws are, they are the replies to m transactions. -/
theorem exists_dumpDrawn (s : State) (m : Nat) : ∃ rep, DumpDrawn s rep m := by
  induction m with
  | zero => exact ⟨fun _ => .clean 0#32 false, fun _ hi => absurd hi (Nat.not_lt_zero _)⟩
  | succ m ih =>
    obtain ⟨rep, hd⟩ := ih
    obtain ⟨q, hq⟩ := exists_drawn s (dumpDraws s.wdata rep m) (dumpRequest s.wdata m).2
    have hsame : ∀ i, i < m → Function.update rep m q i = rep i := fun i hi =>
      Function.update_of_ne (Nat.ne_of_lt hi) q rep
    refine ⟨Function.update rep m q, fun i hi => ?_⟩
    rw [dumpDraws_congr fun j hj => hsame j (by omega)]
    obtain hlt | rfl := Nat.lt_succ_iff_lt_or_eq.1 hi
    · rw [hsame i hlt]
      exact hd i hlt
    · rw [Function.update_self]
      exact hq

/-- Of m replies all succeed, or there is a first that does not. -/
theorem succeeds_or_first_failure (rep : Nat → Reply) (m : Nat) :
    (∀ i, i < m → (rep i).succeeds = true) ∨
      ∃ f, f < m ∧ (∀ i, i < f → (rep i).succeeds = true) ∧ (rep f).succeeds = false := by
  induction m with
  | zero => exact .inl fun i hi => absurd hi (Nat.not_lt_zero i)
  | succ m ih =>
    obtain hall | ⟨f, hf, hfirst⟩ := ih
    · cases hm : (rep m).succeeds with
      | true => exact .inl (Nat.forall_lt_succ_right.2 ⟨hall, hm⟩)
      | false => exact .inr ⟨m, Nat.lt_succ_self m, hall, hm⟩
    · exact .inr ⟨f, Nat.lt_succ_of_lt hf, hfirst⟩

/-- Settles O37: the draws are replies, all of them successes or with a first failure; each end gives the outcome. -/
theorem dumpOutcomeAndFrame : Obligations.DumpOutcomeAndFrame := by
  intro s hq hn
  obtain ⟨rep, hd⟩ := exists_dumpDrawn s (3 + ((s.dlen.toNat + 3) / 4 + 1))
  obtain hs | ⟨m, hm, hs, hf⟩ := succeeds_or_first_failure rep (3 + ((s.dlen.toNat + 3) / 4 + 1))
  · obtain ⟨b, hexec, -, hframe⟩ := dumpCompletesThroughRecoveries s rep hq hn hd hs
    exact ⟨_, hexec, hq.1, .inl ⟨rfl, rfl⟩, rfl, rfl, rfl, rfl, rfl, rfl, rfl, rfl, hframe⟩
  · obtain ⟨b, hexec, -, hframe⟩ :=
      dumpStopsAtFirstFailure s rep m hq hn hm (fun i hi => hd i (by omega)) hs hf
    have hcount : (BitVec.ofNat 32 (min s.dlen.toNat (4 * (m - 4)))).toNat ≤ s.dlen.toNat :=
      (Nat.mod_le _ _).trans (Nat.min_le_left _ _)
    exact ⟨_, hexec, hq.1, .inr ⟨rfl, hcount⟩, rfl, rfl, rfl, rfl, rfl, rfl, rfl, rfl,
      fun a ha => hframe a (by omega)⟩

/-! ## The always-OK target (92_eei_decisions.md D49) -/

/-- Every ACK is ACK_OK; read i gets the word w i with the parity bit par i. -/
def alwaysOkReply (w : Nat → Word) (par : Nat → Bool) : Nat → Reply
  | i + 3 => .clean (w i) (par i)
  | _ => .clean 0#32 false

theorem alwaysOkReply_succeeds (w : Nat → Word) (par : Nat → Bool) (i : Nat) :
    (alwaysOkReply w par i).succeeds = true := by
  match i with
  | 0 | 1 | 2 | _ + 3 => rfl

theorem alwaysOkReply_recovers (w : Nat → Word) (par : Nat → Bool) (i : Nat) :
    (alwaysOkReply w par i).recovers = false := by
  match i with
  | 0 | 1 | 2 | _ + 3 => rfl

/-- Each setup write takes 3 draws, each read 36. -/
theorem dumpDraws_alwaysOk (a : Word) (w : Nat → Word) (par : Nat → Bool) (k : Nat) :
    dumpDraws a (alwaysOkReply w par) (3 + k) = 9 + 36 * k := by
  induction k with
  | zero => rfl
  | succ k ih =>
    rw [← Nat.add_assoc, dumpDraws, ih, Nat.add_comm 3 k]
    simp only [alwaysOkReply, dumpRequest, Reply.draws, XferDir.draws]
    omega

theorem dumpCycles_alwaysOk (p : Params) (a : Word) (w : Nat → Word) (par : Nat → Bool) (k : Nat) :
    dumpCycles p a (alwaysOkReply w par) (3 + k) = dumpTrace p a k w par := by
  induction k with
  | zero => simp [dumpCycles, dumpTrace, alwaysOkReply, dumpRequest, Reply.trace, dataTrace]
  | succ k ih =>
    rw [← Nat.add_assoc, dumpCycles, ih, Nat.add_comm 3 k]
    simp [dumpTrace, alwaysOkReply, dumpRequest, Reply.trace, dataTrace, List.range_succ]

theorem dumpDrawn_alwaysOk {s : State} {k : Nat} {w : Nat → Word} {par : Nat → Bool} (h : AlwaysOk s k w par) :
    DumpDrawn s (alwaysOkReply w par) (3 + k) := by
  obtain ⟨hsetup, hreads⟩ := h
  intro i hi
  match i with
  | 0 => exact ⟨hsetup 0 (by decide), trivial⟩
  | 1 => exact ⟨hsetup 1 (by decide), trivial⟩
  | 2 => exact ⟨hsetup 2 (by decide), trivial⟩
  | i + 3 =>
    obtain ⟨hack, hdata, hpar⟩ := hreads i (by omega)
    rw [Nat.add_comm i 3, dumpDraws_alwaysOk, Nat.add_comm 3 i]
    refine ⟨hack, ?_, ?_⟩
    · rwa [show 9 + 36 * i + 3 = 12 + 36 * i by omega]
    · rwa [show 9 + 36 * i + 3 + 32 = 44 + 36 * i by omega]

/-- Settles O35: the target's replies are all clean, so the DUMP completes, and none recovered. -/
theorem dumpStoresWordsInOrder : Obligations.DumpStoresWordsInOrder := by
  intro s w par hq hn hok
  obtain ⟨b, hexec, hwords, hframe⟩ := dumpCompletesThroughRecoveries s (alwaysOkReply w par) hq hn
    (dumpDrawn_alwaysOk hok) fun i _ => alwaysOkReply_succeeds w par i
  have hword : ∀ j, (alwaysOkReply w par (4 + j)).word = w (j + 1) := fun j => by
    rw [Nat.add_comm]
    rfl
  have hnone : ∀ k, (List.range k).any (fun i => (alwaysOkReply w par i).recovers) = false := fun k => by
    simp [alwaysOkReply_recovers]
  simp only [hword] at hwords
  refine ⟨b, ?_, hwords, hframe⟩
  rw [hexec, dumpCycles_alwaysOk, dumpDraws_alwaysOk, hnone, Nat.add_comm 3 ((s.dlen.toNat + 3) / 4)]
  rfl

end Sys2Proof.Proofs

/-! SUPPORT. The errors and the quiet machine (spec/60_exceptions.md): the two refusals of a CMD write, DUMP refused for
capacity, and a machine with nothing to do. -/

namespace Sys2Proof.Proofs

open Sys2Proof.Machine Sys2Proof.Laws

/-! ## Nothing to do (R262) -/

theorem engineStep_idle {s : State} (h : s.engine = .idle) : engineStep s = s := by
  rw [engineStep, h]

theorem advance_quiet {s : State} (hq : Quiet s) : advance s = s := by
  obtain ⟨hidle, hnil⟩ := hq
  rw [advance_nil hnil, runToEnd_idle hidle]

/-- Settles O11: an idle engine takes no step, and with nothing scheduled the step of the machine is the engine's alone. -/
theorem idleEngineDoesNothing : Obligations.IdleEngineDoesNothing := by
  refine fun s hidle => ⟨engineStep_idle hidle, fun hnil => ?_⟩
  rw [step_nil hnil, advance_quiet ⟨hidle, hnil⟩]

/-! ## The refusals of a CMD write (R241, R242) -/

theorem commandWrite_of_error {c : Word} {e : IllegalWord} (h : decode c = .error e) (s : State) :
    commandWrite c s = .next (advance (refuseWord s)) := by
  rw [commandWrite, h]

theorem refuseWord_busy {s : State} (h : s.busy = true) : refuseWord s = raiseErrBusy s := if_pos h

theorem refuseWord_notBusy {s : State} (h : s.busy = false) : refuseWord s = raiseErrCmd s :=
  if_neg (Bool.eq_false_iff.1 h)

/-- While a command runs the word does not matter: a legal one is refused by its command's CMD write, an illegal one by the
decoder, both with ErrBusy (R251). -/
theorem commandWrite_busy (c : Word) {s : State} (h : s.busy = true) :
    commandWrite c s = .next (advance (raiseErrBusy s)) := by
  cases hd : decode c with
  | ok i => rw [commandWrite_of_decode hd, exec_busy i h]
  | error e => rw [commandWrite_of_error hd, refuseWord_busy h]

/-- A word that is not legal is rejected under one of the decoder's names (30_encoding.md R91, R95). -/
theorem exists_decode_error {c : Word}
    (h : ¬ ∃ r ∈ opcodeMap, c &&& r.mask = r.value ∧
      (r = rowWrbits ∨ r = rowRdbits → 1 ≤ (nField c).toNat ∧ (nField c).toNat ≤ 32)) :
    ∃ e, decode c = .error e := by
  cases hd : decode c with
  | ok i => exact absurd ((decoderAcceptsLegalWords c).1 ⟨i, hd⟩) h
  | error e => exact ⟨e, rfl⟩

/-- Settles O6: taking the write off the schedule leaves the command running, so the write of any word raises ErrBusy. -/
theorem busyWriteSetsErrBusyOnly : Obligations.BusyWriteSetsErrBusyOnly := by
  intro s c rest hbusy hr hs
  have hrest : ({ s with sched := rest, resp := .written } : State).busy = true := hbusy
  rw [step_cmd hr hs, commandWrite_busy c hrest]
  rfl

/-- Settles O7: the decoder rejects the word, and with no command running the refusal raises ErrCmd. -/
theorem illegalWordSetsErrCmdOnly : Obligations.IllegalWordSetsErrCmdOnly := by
  intro s c rest hbusy hr hs hillegal
  obtain ⟨e, hd⟩ := exists_decode_error hillegal
  have hrest : ({ s with sched := rest, resp := .written } : State).busy = false := hbusy
  rw [step_cmd hr hs, commandWrite_of_error hd, refuseWord_notBusy hrest]
  rfl

/-! ## DUMP refused for capacity (R247) -/

/-- At or above the capacity the completion is all there is of DUMP (44_dump.md R225). -/
theorem progOf_dump_refused {s : State} (hn : s.params.dumpCapacity ≤ s.dlen.toNat) :
    progOf .dump s.params (latchOf .dump s) = [.complete .capExceeded] := if_pos hn

/-- A refused DUMP, once accepted by an idle engine, run to its completion. -/
theorem runToEnd_accepted_dump_refused {s : State} (hi : s.engine = .idle) (hn : s.params.dumpCapacity ≤ s.dlen.toNat) :
    runToEnd (accepted .dump (enterOf .dump) (progOf .dump) s) =
      { s with result := .capExceeded, recovered := false, dcount := 0#32 } := by
  rw [show enterOf .dump = none from rfl, accepted_eq, progOf_dump_refused hn, runToEnd_complete, complete_capExceeded _ hi]

/-- The completion is cycle-free, so a refused DUMP completes inside the CMD write, whatever is scheduled
(10_state.md R29). -/
theorem exec_dump_refused {s : State} (hi : s.engine = .idle) (hn : s.params.dumpCapacity ≤ s.dlen.toNat) :
    exec .dump s = .next (advance { s with result := .capExceeded, recovered := false, dcount := 0#32 }) := by
  have hfree : (progOf .dump s.params (latchOf .dump s)).all Op.cycleFree = true := by
    rw [progOf_dump_refused hn]
    rfl
  rw [exec_accepted hi rfl, if_pos hfree, runToEnd_accepted_dump_refused hi hn]

/-- Settles O34: the refused DUMP completes inside the write; with nothing scheduled no step follows it. -/
theorem dumpRefusedForCapacity : Obligations.DumpRefusedForCapacity := by
  refine fun s hi hn => ⟨exec_dump_refused hi hn, fun hnil => ?_⟩
  have hq : Quiet { s with result := .capExceeded, recovered := false, dcount := 0#32 } := ⟨hi, hnil⟩
  rw [exec_dump_refused hi hn, advance_quiet hq]

end Sys2Proof.Proofs

/-! SUPPORT. Reset and the end of every command (spec/70_reset_and_hazards.md): the two reset events, a host access while
reset is asserted, and the bound on a command's run. -/

namespace Sys2Proof.Proofs

open Sys2Proof.Machine Sys2Proof.Laws

/-! ## Every command ends (R284) -/

/-- The bound on what is left of a command is enough (60_exceptions.md R264), and no engine step schedules anything. -/
theorem runToEnd_quiet {s : State} (h : s.sched = []) : Quiet (runToEnd s) :=
  ⟨runToEnd_engine s, (runToEnd_leaves s).sched.trans h⟩

/-- Settles O10: the accepted command is run for as many engine steps as its lines can lead to, and that many steps leave
the engine idle whatever the draws are. -/
theorem everyCommandEnds : Obligations.EveryCommandEnds := by
  intro i s hw hq
  have hrun : exec i s = .next (runToEnd (accepted i (enterOf i) (progOf i) s)) := by
    rw [exec_eq_issue, issue_quiet hq hw]
  exact ⟨_, hrun, runToEnd_quiet hq.2⟩

/-! ## The reset events (R270, R271) -/

theorem step_resetAssert {s : State} {rest : List Event} (h : s.sched = .resetAssert :: rest) :
    step s = .next (advance (assertReset { s with sched := rest })) := step_cons h

theorem step_resetRelease {s : State} {rest : List Event} (h : s.sched = .resetRelease :: rest) :
    step s = .next (advance (releaseReset { s with sched := rest })) := step_cons h

/-- Settles O49: each event is its state operation; a read that comes next stops the engine before it (R72), and with the
input released it is served. -/
theorem resetFromAnyState : Obligations.ResetFromAnyState := by
  refine fun s rest => ⟨step_resetAssert, step_resetRelease, fun off n hs => ?_⟩
  have hstep : step s = .next { s with sched := .read off n :: rest, inReset := false } := by
    rw [step_resetRelease hs, advance_read (off := off) (n := n) (rest := rest) rfl]
    rfl
  exact ⟨_, hstep, rfl, hostReadHasNoSideEffect _ off n rest rfl rfl⟩

/-! ## A host access while reset is asserted (assumption log 7) -/

/-- The events of the schedule that are the host's: an access of the window or a wait. -/
def isHostAccess : Event → Bool
  | .read _ _ => true
  | .write _ _ _ => true
  | .wait => true
  | .engine => false
  | .resetAssert => false
  | .resetRelease => false

/-- The reset input is looked at before the access is decoded, so its offset, width and data do not matter. -/
theorem stepEvent_inReset {e : Event} {s : State} (hr : s.inReset = true) (he : isHostAccess e = true) :
    stepEvent e s = .refused .accessDuringReset := by
  cases e with
  | read off n => exact if_pos hr
  | write off n v => exact if_pos hr
  | wait => exact if_pos hr
  | engine => cases he
  | resetAssert => cases he
  | resetRelease => cases he

/-- Settles O50: whichever of the three accesses comes next, it lands with the reset input still asserted. -/
theorem accessDuringResetRefused : Obligations.AccessDuringResetRefused := by
  intro s off n v rest hr hs
  have refused : ∀ e, s.sched = e :: rest → isHostAccess e = true → step s = .refused .accessDuringReset :=
    fun e hcons he => (step_cons hcons).trans (stepEvent_inReset hr he)
  rcases hs with hread | hwrite | hwait
  · exact refused _ hread rfl
  · exact refused _ hwrite rfl
  · exact refused _ hwait rfl

end Sys2Proof.Proofs
